-- ==== Sys2Proof/Word.lean ====
section
/-! DEFINITION. The value types of the CHIP-8 core: bytes, 16-bit words, 12-bit addresses, register numbers. -/

namespace Sys2Proof

/-- An 8-bit value: a V register, a timer, a byte of memory, NN (R9, R20). -/
abbrev Byte := BitVec 8

/-- A 16-bit value: an instruction word, PC, I, a return address (R20, R70). -/
abbrev Word := BitVec 16

/-- The 12-bit immediate NNN (R71, R72). -/
abbrev Addr := BitVec 12

/-- The number of a V register: a 4-bit field, so every number names a register (R21). -/
abbrev Reg := Fin 16

/-- The flag register VF is V15 (R22). -/
abbrev VF : Reg := 15

end Sys2Proof
end

