-- ==== Sys2Proof/Syntax.lean ====
section
/-! DEFINITION. The instruction set: one constructor per row of spec/opcode_table.json (R3, R74). -/

namespace Sys2Proof

/-- The 34 instructions, in the order of R74.  `x` and `y` are register numbers, `nn` the byte immediate, `nnn` the
address immediate, `n` the row count of a sprite (R71, R72). -/
inductive Instr where
  /-- 00E0 `CLS` (R190) -/
  | cls
  /-- 00EE `RET` (R120) -/
  | ret
  /-- 1NNN `JP nnn` (R121) -/
  | jp (nnn : Addr)
  /-- 2NNN `CALL nnn` (R122) -/
  | call (nnn : Addr)
  /-- 3XNN `SE Vx, nn` (R123) -/
  | seImm (x : Reg) (nn : Byte)
  /-- 4XNN `SNE Vx, nn` (R124) -/
  | sneImm (x : Reg) (nn : Byte)
  /-- 5XY0 `SE Vx, Vy` (R125) -/
  | seReg (x y : Reg)
  /-- 6XNN `LD Vx, nn` (R140) -/
  | ldImm (x : Reg) (nn : Byte)
  /-- 7XNN `ADD Vx, nn` (R141) -/
  | addImm (x : Reg) (nn : Byte)
  /-- 8XY0 `LD Vx, Vy` (R142) -/
  | ldReg (x y : Reg)
  /-- 8XY1 `OR Vx, Vy` (R143) -/
  | orReg (x y : Reg)
  /-- 8XY2 `AND Vx, Vy` (R144) -/
  | andReg (x y : Reg)
  /-- 8XY3 `XOR Vx, Vy` (R145) -/
  | xorReg (x y : Reg)
  /-- 8XY4 `ADD Vx, Vy` (R146) -/
  | addReg (x y : Reg)
  /-- 8XY5 `SUB Vx, Vy` (R147) -/
  | sub (x y : Reg)
  /-- 8XY6 `SHR Vx, Vy` (R148) -/
  | shr (x y : Reg)
  /-- 8XY7 `SUBN Vx, Vy` (R149) -/
  | subn (x y : Reg)
  /-- 8XYE `SHL Vx, Vy` (R150) -/
  | shl (x y : Reg)
  /-- 9XY0 `SNE Vx, Vy` (R126) -/
  | sneReg (x y : Reg)
  /-- ANNN `LD I, nnn` (R170) -/
  | ldI (nnn : Addr)
  /-- BNNN `JP V0, nnn` (R127) -/
  | jpV0 (nnn : Addr)
  /-- CXNN `RND Vx, nn` (R151) -/
  | rnd (x : Reg) (nn : Byte)
  /-- DXYN `DRW Vx, Vy, n` (R191) -/
  | drw (x y : Reg) (n : Fin 16)
  /-- EX9E `SKP Vx` (R210) -/
  | skp (x : Reg)
  /-- EXA1 `SKNP Vx` (R211) -/
  | sknp (x : Reg)
  /-- FX07 `LD Vx, DT` (R213) -/
  | ldVxDt (x : Reg)
  /-- FX0A `LD Vx, K` (R214) -/
  | ldVxK (x : Reg)
  /-- FX15 `LD DT, Vx` (R215) -/
  | ldDtVx (x : Reg)
  /-- FX18 `LD ST, Vx` (R216) -/
  | ldStVx (x : Reg)
  /-- FX1E `ADD I, Vx` (R171) -/
  | addIVx (x : Reg)
  /-- FX29 `LD F, Vx` (R172) -/
  | ldFVx (x : Reg)
  /-- FX33 `LD B, Vx` (R173) -/
  | ldBVx (x : Reg)
  /-- FX55 `LD [I], Vx` (R174) -/
  | ldMemVx (x : Reg)
  /-- FX65 `LD Vx, [I]` (R175) -/
  | ldVxMem (x : Reg)
  deriving DecidableEq, Repr

/-- The fields X, Y, N, NN and NNN as plain numbers, `none` where an instruction has no such operand (R71). -/
structure Fields where
  x : Option Nat := none
  y : Option Nat := none
  n : Option Nat := none
  nn : Option Nat := none
  nnn : Option Nat := none
  deriving DecidableEq, Repr

/-- The operands of an instruction, by the field that carries each (R71, R74). -/
def Instr.fields : Instr → Fields
  | .cls | .ret => {}
  | .jp nnn | .call nnn | .ldI nnn | .jpV0 nnn => { nnn := some nnn.toNat }
  | .seImm x nn | .sneImm x nn | .ldImm x nn | .addImm x nn | .rnd x nn =>
    { x := some x.val, nn := some nn.toNat }
  | .seReg x y | .ldReg x y | .orReg x y | .andReg x y | .xorReg x y | .addReg x y | .sub x y | .shr x y
  | .subn x y | .shl x y | .sneReg x y => { x := some x.val, y := some y.val }
  | .drw x y n => { x := some x.val, y := some y.val, n := some n.val }
  | .skp x | .sknp x | .ldVxDt x | .ldVxK x | .ldDtVx x | .ldStVx x | .addIVx x | .ldFVx x | .ldBVx x
  | .ldMemVx x | .ldVxMem x => { x := some x.val }

end Sys2Proof
end

