-- ==== Sys2Proof/WellFormed.lean ====
section
/-! DEFINITION. Well-formed operands: each field fits its width (R71, R72).  The operand types of `Instr` already say
so, and a theorem of Laws/WellFormed.lean states that every instruction is well formed; the checks themselves run on
the plain numbers of `Fields`, where an operand that fits no word can be written. -/

namespace Sys2Proof

/-- X is 4 bits wide, or absent. -/
def Fields.xFits (f : Fields) : Bool := f.x.all (· < 16)

/-- Y is 4 bits wide, or absent. -/
def Fields.yFits (f : Fields) : Bool := f.y.all (· < 16)

/-- N is 4 bits wide, or absent. -/
def Fields.nFits (f : Fields) : Bool := f.n.all (· < 16)

/-- NN is 8 bits wide, or absent. -/
def Fields.nnFits (f : Fields) : Bool := f.nn.all (· < 256)

/-- NNN is 12 bits wide, or absent. -/
def Fields.nnnFits (f : Fields) : Bool := f.nnn.all (· < 4096)

/-- Every operand fits its field. -/
def Fields.wf (f : Fields) : Bool := f.xFits && f.yFits && f.nFits && f.nnFits && f.nnnFits

/-- An instruction is well formed when its operands fit the fields of its word. -/
def Instr.wf (i : Instr) : Bool := i.fields.wf

end Sys2Proof
end

