-- ==== Sys2Proof/Decode.lean ====
section
/-! DEFINITION. Words to instructions and back: the fields of R71, the family dispatch of R73, the mask and match table
of R74, and the encoder. -/

namespace Sys2Proof

/-- The unsigned value of `len` bits of `w` from bit `lo` up (R9, R71). -/
def field (w : Word) (lo len : Nat) : Nat := w.toNat >>> lo % 2 ^ len

/-- F, bits 15:12: the family (R71). -/
def fieldF (w : Word) : Nat := field w 12 4

/-- X, bits 11:8 (R71). -/
def fieldX (w : Word) : Reg := Fin.ofNat 16 (field w 8 4)

/-- Y, bits 7:4 (R71). -/
def fieldY (w : Word) : Reg := Fin.ofNat 16 (field w 4 4)

/-- N, bits 3:0 (R71). -/
def fieldN (w : Word) : Fin 16 := Fin.ofNat 16 (field w 0 4)

/-- NN, bits 7:0 (R71). -/
def fieldNN (w : Word) : Byte := BitVec.ofNat 8 (field w 0 8)

/-- NNN, bits 11:0 (R71). -/
def fieldNNN (w : Word) : Addr := BitVec.ofNat 12 (field w 0 12)

/-- Why bytes are no instruction. -/
inductive DecodeError where
  /-- the word matches no row of R74 (R75) -/
  | unsupportedOpcode (w : Word)
  /-- fewer than two bytes were given; a fetch always reads two (R102), so no step meets this -/
  | truncated
  deriving DecidableEq, Repr

/-- Family 0x0 selects on the whole word (R73, D6). -/
def decodeFamily0 (w : Word) : Except DecodeError Instr :=
  if w = 0x00E0 then .ok .cls
  else if w = 0x00EE then .ok .ret
  else .error (.unsupportedOpcode w)

/-- Families 0x5 and 0x9 require N = 0 (R73). -/
def decodeNibble0 (w : Word) (i : Instr) : Except DecodeError Instr :=
  if field w 0 4 = 0 then .ok i else .error (.unsupportedOpcode w)

/-- Family 0x8 selects on N (R73). -/
def decodeFamily8 (w : Word) : Except DecodeError Instr :=
  match field w 0 4 with
  | 0x0 => .ok (.ldReg (fieldX w) (fieldY w))
  | 0x1 => .ok (.orReg (fieldX w) (fieldY w))
  | 0x2 => .ok (.andReg (fieldX w) (fieldY w))
  | 0x3 => .ok (.xorReg (fieldX w) (fieldY w))
  | 0x4 => .ok (.addReg (fieldX w) (fieldY w))
  | 0x5 => .ok (.sub (fieldX w) (fieldY w))
  | 0x6 => .ok (.shr (fieldX w) (fieldY w))
  | 0x7 => .ok (.subn (fieldX w) (fieldY w))
  | 0xE => .ok (.shl (fieldX w) (fieldY w))
  | _ => .error (.unsupportedOpcode w)

/-- Family 0xE selects on NN (R73). -/
def decodeFamilyE (w : Word) : Except DecodeError Instr :=
  match field w 0 8 with
  | 0x9E => .ok (.skp (fieldX w))
  | 0xA1 => .ok (.sknp (fieldX w))
  | _ => .error (.unsupportedOpcode w)

/-- Family 0xF selects on NN (R73). -/
def decodeFamilyF (w : Word) : Except DecodeError Instr :=
  match field w 0 8 with
  | 0x07 => .ok (.ldVxDt (fieldX w))
  | 0x0A => .ok (.ldVxK (fieldX w))
  | 0x15 => .ok (.ldDtVx (fieldX w))
  | 0x18 => .ok (.ldStVx (fieldX w))
  | 0x1E => .ok (.addIVx (fieldX w))
  | 0x29 => .ok (.ldFVx (fieldX w))
  | 0x33 => .ok (.ldBVx (fieldX w))
  | 0x55 => .ok (.ldMemVx (fieldX w))
  | 0x65 => .ok (.ldVxMem (fieldX w))
  | _ => .error (.unsupportedOpcode w)

/-- The decoder: the top nibble selects a family, and families 0x0, 0x5, 0x8, 0x9, 0xE and 0xF look further
(R73, R78, R103).  Total on every word. -/
def decodeWord (w : Word) : Except DecodeError Instr :=
  match fieldF w with
  | 0x0 => decodeFamily0 w
  | 0x1 => .ok (.jp (fieldNNN w))
  | 0x2 => .ok (.call (fieldNNN w))
  | 0x3 => .ok (.seImm (fieldX w) (fieldNN w))
  | 0x4 => .ok (.sneImm (fieldX w) (fieldNN w))
  | 0x5 => decodeNibble0 w (.seReg (fieldX w) (fieldY w))
  | 0x6 => .ok (.ldImm (fieldX w) (fieldNN w))
  | 0x7 => .ok (.addImm (fieldX w) (fieldNN w))
  | 0x8 => decodeFamily8 w
  | 0x9 => decodeNibble0 w (.sneReg (fieldX w) (fieldY w))
  | 0xA => .ok (.ldI (fieldNNN w))
  | 0xB => .ok (.jpV0 (fieldNNN w))
  | 0xC => .ok (.rnd (fieldX w) (fieldNN w))
  | 0xD => .ok (.drw (fieldX w) (fieldY w) (fieldN w))
  | 0xE => decodeFamilyE w
  | 0xF => decodeFamilyF w
  | _ => .error (.unsupportedOpcode w)

/-- The instruction word of two bytes, the byte at the lower address first: big-endian (R54). -/
def wordOfBytes (hi lo : Byte) : Word := BitVec.ofNat 16 (hi.toNat <<< 8 ||| lo.toNat)

/-- The byte of a word at the lower address: bits 15:8 (R54). -/
def highByte (w : Word) : Byte := BitVec.ofNat 8 (field w 8 8)

/-- The byte of a word at the higher address: bits 7:0 (R54). -/
def lowByte (w : Word) : Byte := BitVec.ofNat 8 (field w 0 8)

/-- The decoder over bytes: the instruction of the first two and the bytes after it. -/
def decodeBytes : List Byte → Except DecodeError (Instr × List Byte)
  | hi :: lo :: rest => (decodeWord (wordOfBytes hi lo)).map fun i => (i, rest)
  | _ => .error .truncated

/-- A word from a family and its 12 low bits. -/
def wordNNN (f : Nat) (nnn : Addr) : Word := BitVec.ofNat 16 (f * 0x1000 + nnn.toNat)

/-- A word from a family, X and NN. -/
def wordXNN (f : Nat) (x : Reg) (nn : Nat) : Word := BitVec.ofNat 16 (f * 0x1000 + x.val * 0x100 + nn)

/-- A word from a family, X, Y and N. -/
def wordXYN (f : Nat) (x y : Reg) (n : Nat) : Word :=
  BitVec.ofNat 16 (f * 0x1000 + x.val * 0x100 + y.val * 0x10 + n)

/-- The encoder: the word of each instruction, from the patterns of R74. -/
def encode : Instr → Word
  | .cls => 0x00E0
  | .ret => 0x00EE
  | .jp nnn => wordNNN 0x1 nnn
  | .call nnn => wordNNN 0x2 nnn
  | .seImm x nn => wordXNN 0x3 x nn.toNat
  | .sneImm x nn => wordXNN 0x4 x nn.toNat
  | .seReg x y => wordXYN 0x5 x y 0x0
  | .ldImm x nn => wordXNN 0x6 x nn.toNat
  | .addImm x nn => wordXNN 0x7 x nn.toNat
  | .ldReg x y => wordXYN 0x8 x y 0x0
  | .orReg x y => wordXYN 0x8 x y 0x1
  | .andReg x y => wordXYN 0x8 x y 0x2
  | .xorReg x y => wordXYN 0x8 x y 0x3
  | .addReg x y => wordXYN 0x8 x y 0x4
  | .sub x y => wordXYN 0x8 x y 0x5
  | .shr x y => wordXYN 0x8 x y 0x6
  | .subn x y => wordXYN 0x8 x y 0x7
  | .shl x y => wordXYN 0x8 x y 0xE
  | .sneReg x y => wordXYN 0x9 x y 0x0
  | .ldI nnn => wordNNN 0xA nnn
  | .jpV0 nnn => wordNNN 0xB nnn
  | .rnd x nn => wordXNN 0xC x nn.toNat
  | .drw x y n => wordXYN 0xD x y n.val
  | .skp x => wordXNN 0xE x 0x9E
  | .sknp x => wordXNN 0xE x 0xA1
  | .ldVxDt x => wordXNN 0xF x 0x07
  | .ldVxK x => wordXNN 0xF x 0x0A
  | .ldDtVx x => wordXNN 0xF x 0x15
  | .ldStVx x => wordXNN 0xF x 0x18
  | .addIVx x => wordXNN 0xF x 0x1E
  | .ldFVx x => wordXNN 0xF x 0x29
  | .ldBVx x => wordXNN 0xF x 0x33
  | .ldMemVx x => wordXNN 0xF x 0x55
  | .ldVxMem x => wordXNN 0xF x 0x65

/-- A row of R74: the word `w` is the row's instruction when `w &&& mask` is `bits`. -/
structure OpcodeRow where
  mnemonic : String
  mask : Word
  bits : Word
  deriving DecidableEq, Repr

/-- Whether a word is an instruction of this row (R74). -/
def OpcodeRow.accepts (r : OpcodeRow) (w : Word) : Bool := w &&& r.mask == r.bits

/-- The rows of families 0x0 to 0x7. -/
def rowsLow : List OpcodeRow :=
  [⟨"CLS", 0xFFFF, 0x00E0⟩, ⟨"RET", 0xFFFF, 0x00EE⟩, ⟨"JP", 0xF000, 0x1000⟩, ⟨"CALL", 0xF000, 0x2000⟩,
   ⟨"SE_IMM", 0xF000, 0x3000⟩, ⟨"SNE_IMM", 0xF000, 0x4000⟩, ⟨"SE_REG", 0xF00F, 0x5000⟩,
   ⟨"LD_IMM", 0xF000, 0x6000⟩, ⟨"ADD_IMM", 0xF000, 0x7000⟩]

/-- The rows of families 0x8 and 0x9. -/
def rowsMid : List OpcodeRow :=
  [⟨"LD_REG", 0xF00F, 0x8000⟩, ⟨"OR", 0xF00F, 0x8001⟩, ⟨"AND", 0xF00F, 0x8002⟩, ⟨"XOR", 0xF00F, 0x8003⟩,
   ⟨"ADD_REG", 0xF00F, 0x8004⟩, ⟨"SUB", 0xF00F, 0x8005⟩, ⟨"SHR", 0xF00F, 0x8006⟩, ⟨"SUBN", 0xF00F, 0x8007⟩,
   ⟨"SHL", 0xF00F, 0x800E⟩, ⟨"SNE_REG", 0xF00F, 0x9000⟩]

/-- The rows of families 0xA to 0xF. -/
def rowsHigh : List OpcodeRow :=
  [⟨"LD_I", 0xF000, 0xA000⟩, ⟨"JP_V0", 0xF000, 0xB000⟩, ⟨"RND", 0xF000, 0xC000⟩, ⟨"DRW", 0xF000, 0xD000⟩,
   ⟨"SKP", 0xF0FF, 0xE09E⟩, ⟨"SKNP", 0xF0FF, 0xE0A1⟩, ⟨"LD_VX_DT", 0xF0FF, 0xF007⟩,
   ⟨"LD_VX_K", 0xF0FF, 0xF00A⟩, ⟨"LD_DT_VX", 0xF0FF, 0xF015⟩, ⟨"LD_ST_VX", 0xF0FF, 0xF018⟩,
   ⟨"ADD_I_VX", 0xF0FF, 0xF01E⟩, ⟨"LD_F_VX", 0xF0FF, 0xF029⟩, ⟨"LD_B_VX", 0xF0FF, 0xF033⟩,
   ⟨"LD_MEM_VX", 0xF0FF, 0xF055⟩, ⟨"LD_VX_MEM", 0xF0FF, 0xF065⟩]

/-- The decode table of R74, written apart from the dispatch decoder so that the two can be compared. -/
def opcodeRows : List OpcodeRow := rowsLow ++ rowsMid ++ rowsHigh

/-- The table row an instruction belongs to, by its mnemonic in spec/opcode_table.json. -/
def Instr.mnemonic : Instr → String
  | .cls => "CLS" | .ret => "RET" | .jp _ => "JP" | .call _ => "CALL"
  | .seImm _ _ => "SE_IMM" | .sneImm _ _ => "SNE_IMM" | .seReg _ _ => "SE_REG"
  | .ldImm _ _ => "LD_IMM" | .addImm _ _ => "ADD_IMM"
  | .ldReg _ _ => "LD_REG" | .orReg _ _ => "OR" | .andReg _ _ => "AND" | .xorReg _ _ => "XOR"
  | .addReg _ _ => "ADD_REG" | .sub _ _ => "SUB" | .shr _ _ => "SHR" | .subn _ _ => "SUBN"
  | .shl _ _ => "SHL" | .sneReg _ _ => "SNE_REG"
  | .ldI _ => "LD_I" | .jpV0 _ => "JP_V0" | .rnd _ _ => "RND" | .drw _ _ _ => "DRW"
  | .skp _ => "SKP" | .sknp _ => "SKNP" | .ldVxDt _ => "LD_VX_DT" | .ldVxK _ => "LD_VX_K"
  | .ldDtVx _ => "LD_DT_VX" | .ldStVx _ => "LD_ST_VX" | .addIVx _ => "ADD_I_VX" | .ldFVx _ => "LD_F_VX"
  | .ldBVx _ => "LD_B_VX" | .ldMemVx _ => "LD_MEM_VX" | .ldVxMem _ => "LD_VX_MEM"

/-- The word of an instruction as the host numbers it: bit 0 is the least significant bit of the one 16-bit word, and
bits above `nbits` are 0 (log entry 12). -/
def tableWord (nbits w : Nat) : Word := BitVec.ofNat 16 (w % 2 ^ nbits)

/-- The instruction the decoder reads from a table word of `nbits` bits laid out big-endian; `none` where it refuses,
and for a word longer than the one length of R70 (log entry 12). -/
def decodeTableWord (nbits w : Nat) : Option Instr :=
  if 16 < nbits then none
  else
    match decodeBytes [highByte (tableWord nbits w), lowByte (tableWord nbits w)] with
    | .ok (i, _) => some i
    | .error _ => none

end Sys2Proof
end

