-- ==== Sys2Proof/Config.lean ====
section
/-! DEFINITION. The implementation parameters of R7: what the spec fixes, what it leaves open, and the free values. -/

namespace Sys2Proof

/-- What happens to a sprite pixel past the display edge (R194). -/
inductive DrawEdge where
  /-- the pixel is not drawn and cannot collide: the spec's value (D3, C4) -/
  | clip
  /-- the pixel wraps to the opposite edge: the reading that loses in C4 -/
  | wrap
  deriving DecidableEq, Repr

namespace Config

/-- `MEM_SIZE` (R7). -/
def memSize : Nat := 4096

/-- `PROG_START` (R7, R58). -/
def progStart : Nat := 0x200

/-- `STACK_DEPTH` (R7, R28). -/
def stackDepth : Nat := 16

/-- `DISP_W` (R7). -/
def dispW : Nat := 64

/-- `DISP_H` (R7). -/
def dispH : Nat := 32

/-- `MAX_ROM` (R7, R273). -/
def maxRom : Nat := 3584

/-- `DRAW_EDGE`, the value the spec resolves to (R194, C4; log entry 6). -/
def drawEdge : DrawEdge := .clip

/-- The open choice of `FONT_BASE` (D1): any address that leaves room for 80 bytes below 0x200, which is
0 to 432.  A free value (log entry 4). -/
opaque fontBaseChoice : Fin 433

/-- `FONT_BASE` (R60, D1). -/
def fontBase : Nat := fontBaseChoice.val

/-- `FONT_DATA`, the 80 glyph bytes of R272 (PRESUMED: the spec takes them from general knowledge, D2; unsafe, log entry 5). -/
def fontData : List Byte :=
  [0xF0, 0x90, 0x90, 0x90, 0xF0,  0x20, 0x60, 0x20, 0x20, 0x70] ++
  [0xF0, 0x10, 0xF0, 0x80, 0xF0,  0xF0, 0x10, 0xF0, 0x10, 0xF0] ++
  [0x90, 0x90, 0xF0, 0x10, 0x10,  0xF0, 0x80, 0xF0, 0x10, 0xF0] ++
  [0xF0, 0x80, 0xF0, 0x90, 0xF0,  0xF0, 0x10, 0x20, 0x40, 0x40] ++
  [0xF0, 0x90, 0xF0, 0x90, 0xF0,  0xF0, 0x90, 0xF0, 0x10, 0xF0] ++
  [0xF0, 0x90, 0xF0, 0x90, 0x90,  0xE0, 0x90, 0xE0, 0x90, 0xE0] ++
  [0xF0, 0x80, 0x80, 0x80, 0xF0,  0xE0, 0x90, 0x90, 0x90, 0xE0] ++
  [0xF0, 0x80, 0xF0, 0x80, 0xF0,  0xF0, 0x80, 0xF0, 0x80, 0x80]

/-- `ON_COLOR`, a host value the spec leaves open (R196, D29): a free value (log entry 7). -/
opaque onColor : Nat

/-- The open choice behind `OFF_COLOR` (D29): a free value (log entry 7). -/
opaque offColorChoice : Nat

/-- `OFF_COLOR`: any host value that differs from `ON_COLOR` (D29). -/
def offColor : Nat := if offColorChoice < onColor then offColorChoice else offColorChoice + 1

/-- The byte of the k-th CXNN whose draw the injected generator has not yet fixed (R152): a free value, under no law
(log entry 1). -/
opaque randomByte : Nat → Byte

end Config

end Sys2Proof
end

