-- ==== Sys2Proof/Machine/State.lean ====
section
/-! DEFINITION. The machine's state (R20), its reset value (R40), and the reasons a step can stop. -/

namespace Sys2Proof.Machine

/-- The error kinds of a STEP (R106, R231), recorded in the fault latch (R37).  A failing STEP has an effect in this
spec, the latch set and nothing else changed (R105, R108), so it answers a next state, and no step answers
`Outcome.fault` with one of these (log entry 2). -/
inductive Fault where
  /-- STEP at decode: the fetched word matches no row of R74.  Safe: the spec's own error. -/
  | unsupportedOpcode
  /-- 00EE with an empty stack (R120).  Safe: the spec's own error. -/
  | stackUnderflow
  /-- 2NNN with 16 entries on the stack (R122).  Safe: the spec's own error. -/
  | stackOverflow
  /-- EX9E or EXA1 with VX of 16 or more (R212).  Safe: the source calls the case undefined and the session ends. -/
  | keyIndexOutOfRange
  deriving DecidableEq, Repr

/-- Why a step is not executed at all. -/
inductive Refusal where
  /-- `exec`: an instruction without a meaning in this model; no arm raises it.  Safe. -/
  | notModelled (mnemonic : String)
  /-- `step` while the fault latch is set: refused, not executed (R101).  Safe. -/
  | sessionEnded (f : Fault)
  /-- a port other than INIT before the first INIT (R271).  Safe. -/
  | notInitialized
  deriving DecidableEq, Repr

/-- Memory: the bytes that differ from what an unlisted address reads as, at rising addresses (R32, R50). -/
abbrev Memory := List Host.Cell

/-- What an address not listed reads as: the 0x00 every byte holds after INIT (R40, R270). -/
def Memory.unlisted : Byte := 0x00

/-- The canonical form: addresses strictly rising, inside the 4096 bytes, and no entry equal to what an unlisted
address reads as. -/
abbrev Memory.wf (m : Memory) : Prop :=
  m.Pairwise (fun a b => a.1 < b.1) ∧ ∀ c ∈ m, c.1 < Config.memSize ∧ c.2 ≠ Memory.unlisted

/-- The framebuffer: 32 rows of 64 pixels, a row's most significant bit its leftmost pixel (R33, R34; log entry 8). -/
abbrev Framebuffer := Vector (BitVec 64) 32

/-- A framebuffer under a draw and whether a lit pixel has been turned dark so far (R191, `hit`). -/
structure Canvas where
  fb : Framebuffer
  hit : Bool
  deriving DecidableEq, Repr

/-- The state of the core: every row of R20, and two fields of the model's own (log entry 1). -/
structure State where
  /-- V0..VF (R21); V15 is VF (R22) -/
  v : Vector Byte 16
  /-- the address register I (R24) -/
  i : Word
  /-- the program counter (R25) -/
  pc : Word
  /-- the return addresses, the most recent first (R28; log entry 9) -/
  stack : List Word
  /-- the delay timer (R30) -/
  dt : Byte
  /-- the sound timer (R31) -/
  st : Byte
  /-- the 4096 bytes of memory (R32) -/
  mem : Memory
  /-- the display (R33) -/
  fb : Framebuffer
  /-- the key flags, true when pressed (R35) -/
  keys : Vector Bool 16
  /-- the fault latch (R37) -/
  fault : Option Fault
  /-- the model's own: bytes the injected generator has supplied and no CXNN has consumed (R246) -/
  randomIn : List Byte
  /-- the model's own: the index of the next free draw -/
  draws : Nat
  deriving DecidableEq, Repr

/-- The state after INIT (R40, R270).  `randomIn` and `draws` are the model's own (DESIGN CHOICE, safe, log entry 1). -/
def State.reset : State where
  v := Vector.replicate 16 0x00
  i := 0x0000
  pc := BitVec.ofNat 16 Config.progStart
  stack := []
  dt := 0x00
  st := 0x00
  mem := []
  fb := Vector.replicate 32 0
  keys := Vector.replicate 16 false
  fault := none
  randomIn := []
  draws := 0

/-- What a step answers. -/
abbrev Outcome := Host.Outcome State Fault Refusal

end Sys2Proof.Machine
end

