-- ==== Sys2Proof/Machine/Ops.lean ====
section
/-! DEFINITION. The shared operations: memory, registers, framebuffer, keys, stack, PC, errors, the random draw, fetch. -/

namespace Sys2Proof.Machine

/-! ## Memory -/

/-- `a & 0xFFF`: every byte access reduces its own address to 12 bits (R51, R52). -/
def maskAddr (a : Nat) : Nat := a % 4096

/-- The byte listed at an address, or what an unlisted address reads as. -/
def Memory.lookup (a : Nat) : Memory → Byte
  | [] => Memory.unlisted
  | c :: m => if c.1 = a then c.2 else Memory.lookup a m

/-- Put a byte at an address, keeping the canonical form. -/
def Memory.put (a : Nat) (b : Byte) : Memory → Memory
  | [] => if b = Memory.unlisted then [] else [(a, b)]
  | c :: m =>
    if a < c.1 then (if b = Memory.unlisted then c :: m else (a, b) :: c :: m)
    else if a = c.1 then (if b = Memory.unlisted then m else (a, b) :: m)
    else c :: Memory.put a b m

/-- `MemRead(a, 1)` (R52). -/
def Memory.read (m : Memory) (a : Nat) : Byte := m.lookup (maskAddr a)

/-- `MemWrite(a, 1, b)` (R52). -/
def Memory.write (m : Memory) (a : Nat) (b : Byte) : Memory := m.put (maskAddr a) b

/-- The byte of the state's memory at an address. -/
def State.byteAt (s : State) (a : Nat) : Byte := s.mem.read a

/-- Write one byte of the state's memory. -/
def State.setByte (s : State) (a : Nat) (b : Byte) : State := { s with mem := s.mem.write a b }

/-- Write bytes at ascending addresses from `a`. -/
def State.setBytes (a : Nat) : List Byte → State → State
  | [], s => s
  | b :: bs, s => State.setBytes (a + 1) bs (s.setByte a b)

/-! ## V registers -/

/-- `V[r]` (R11, R21). -/
def State.reg (s : State) (r : Reg) : Byte := s.v.get r

/-- `V[r] <- b` (R11, R21). -/
def State.setReg (s : State) (r : Reg) (b : Byte) : State := { s with v := s.v.set r.val b r.isLt }

/-- Write a result and then the flag, so that VF holds the flag when the destination is VF (R12, R107). -/
def State.setRegThenFlag (s : State) (r : Reg) (b flag : Byte) : State := (s.setReg r b).setReg VF flag

/-! ## I and the timers -/

/-- `I <- a` (R11, R24). -/
def State.setI (s : State) (a : Word) : State := { s with i := a }

/-- `DT <- b` (R11, R30). -/
def State.setDt (s : State) (b : Byte) : State := { s with dt := b }

/-- `ST <- b` (R11, R31). -/
def State.setSt (s : State) (b : Byte) : State := { s with st := b }

/-! ## Program counter -/

/-- The default PC update, `PC + 2` modulo 2^16 (R27, R104). -/
def State.advance (s : State) : State := { s with pc := s.pc + 2 }

/-- The PC update of a conditional skip: `PC + 4` when taken, else `PC + 2` (R104). -/
def State.skipIf (s : State) (taken : Bool) : State := { s with pc := if taken then s.pc + 4 else s.pc + 2 }

/-- `PC <- target` (R104, R128): no alignment or range check. -/
def State.jumpTo (s : State) (target : Word) : State := { s with pc := target }

/-! ## Call stack -/

/-- `push(a)` (R11, R28). -/
def State.push (s : State) (a : Word) : State := { s with stack := a :: s.stack }

/-- The stack once the most recent entry is removed (R11, R28). -/
def State.dropTop (s : State) : State := { s with stack := s.stack.tail }

/-! ## Errors -/

/-- `raise E`: the STEP ends with the error, the fault latch holds it and nothing else changes (R105, R108).  This is
all there is to taking an error: no state is saved, no handler runs (R230, R235), and there is no return from it but
INIT (R236). -/
def raise (f : Fault) (s : State) : Outcome := .next { s with fault := some f }

/-! ## Framebuffer -/

/-- `Fb[x, y]`: bit 7 of the first packed byte of a row is its leftmost pixel (R11, R33, R34). -/
def Framebuffer.pixel (fb : Framebuffer) (x : Fin 64) (y : Fin 32) : Bool := (fb.get y).getMsbD x.val

/-- `Fb[x, y] <- Fb[x, y] ^ 1` (R191). -/
def Framebuffer.flip (fb : Framebuffer) (x : Fin 64) (y : Fin 32) : Framebuffer :=
  fb.set y.val (fb.get y ^^^ BitVec.twoPow 64 (63 - x.val)) y.isLt

/-- A new framebuffer in place of the old. -/
def State.setFb (s : State) (fb : Framebuffer) : State := { s with fb := fb }

/-- Every pixel dark (R190). -/
def Framebuffer.dark : Framebuffer := Vector.replicate 32 0

/-- Where a sprite pixel falls: its place on the display, or `none` when it is not on it (R194). -/
def placePixel (e : DrawEdge) (x y : Nat) : Option (Fin 64 × Fin 32) :=
  match e with
  | .clip => if h : x < 64 ∧ y < 32 then some (⟨x, h.1⟩, ⟨y, h.2⟩) else none
  | .wrap => some (Fin.ofNat 64 x, Fin.ofNat 32 y)

/-- XOR one pixel and note a collision: the pixel was lit and turns dark (R191, R195). -/
def Canvas.drawPixel (e : DrawEdge) (x y : Nat) (c : Canvas) : Canvas :=
  match placePixel e x y with
  | none => c
  | some (px, py) => { fb := c.fb.flip px py, hit := c.hit || c.fb.pixel px py }

/-- Draw the first `k` columns of a sprite row at `(x0, y)`: bit 7 of the byte is column `x0` (R191, R192). -/
def Canvas.drawCols (e : DrawEdge) (row : Byte) (x0 y : Nat) : Nat → Canvas → Canvas
  | 0, c => c
  | k + 1, c =>
    let c' := Canvas.drawCols e row x0 y k c
    if row.getMsbD k then c'.drawPixel e (x0 + k) y else c'

/-- Draw the first `n` rows of a sprite at `(x0, y0)`; `sprite r` is the byte of row `r` (R191). -/
def Canvas.drawRows (e : DrawEdge) (sprite : Nat → Byte) (x0 y0 : Nat) : Nat → Canvas → Canvas
  | 0, c => c
  | r + 1, c => (Canvas.drawRows e sprite x0 y0 r c).drawCols e (sprite r) x0 (y0 + r) 8

/-! ## Keys -/

/-- `Key[k]` (R11, R35). -/
def State.key (s : State) (k : Fin 16) : Bool := s.keys.get k

/-- `Key[k]` for a byte, `none` when it names no key (R212). -/
def State.keyAt (s : State) (k : Byte) : Option Bool :=
  if h : k.toNat < 16 then some (s.key ⟨k.toNat, h⟩) else none

/-- The key indices in ascending order (R214). -/
def keyOrder : List (Fin 16) := [0, 1, 2, 3, 4, 5, 6, 7, 8, 9, 10, 11, 12, 13, 14, 15]

/-- The lowest pressed key (R214). -/
def State.firstKey (s : State) : Option (Fin 16) := keyOrder.find? s.key

/-! ## Parameters -/

/-- `FONT_BASE` (R60; log entry 4). -/
def fontBase : Nat := Config.fontBase

/-- `FONT_DATA` (R272; log entry 5). -/
def fontData : List Byte := Config.fontData

/-- `DRAW_EDGE` (R194; log entry 6). -/
def drawEdge : DrawEdge := Config.drawEdge

/-! ## Random input -/

/-- The byte `RandomByte()` gives next: the first one the host's generator has supplied, else a free value (R152, R246;
log entry 1). -/
def State.randomByte (s : State) : Byte :=
  match s.randomIn with
  | r :: _ => r
  | [] => Config.randomByte s.draws

/-- The state after one draw: the byte is consumed, and no later draw reads the same free value. -/
def State.consumeRandom (s : State) : State :=
  match s.randomIn with
  | _ :: rest => { s with randomIn := rest }
  | [] => { s with draws := s.draws + 1 }

/-! ## Fetch -/

/-- The instruction word at PC: big-endian, each address masked to 12 bits (R54, R55, R102). -/
def State.fetchWord (s : State) : Word := wordOfBytes (s.byteAt s.pc.toNat) (s.byteAt (s.pc.toNat + 1))

/-- Store a word where the next fetch reads it: the two bytes at PC, big-endian (R54). -/
def State.placeWord (s : State) (w : Word) : State :=
  (s.setByte s.pc.toNat (highByte w)).setByte (s.pc.toNat + 1) (lowByte w)

end Sys2Proof.Machine
end

