-- ==== Sys2Proof/Machine/Operands.lean ====
section
/-! DEFINITION. Operand forms: zero-extended immediates, the addresses formed from I, decimal digits, glyph addresses. -/

namespace Sys2Proof.Machine

/-- NNN as PC or I: zero-extended to 16 bits (R72). -/
def zextNNN (nnn : Addr) : Word := nnn.setWidth 16

/-- The BNNN target `V[0] + NNN`, kept in 16 bits (R127). -/
def offsetTarget (v0 : Byte) (nnn : Addr) : Word := BitVec.ofNat 16 (v0.toNat + nnn.toNat)

/-- The address `I + k` of a memory operand before its mask (R176). -/
def State.indexed (s : State) (k : Nat) : Nat := s.i.toNat + k

/-- The glyph address of FX29, `FONT_BASE + 5 * VX` with the full byte VX (R172). -/
def glyphAddr (vx : Byte) : Word := BitVec.ofNat 16 (fontBase + 5 * vx.toNat)

/-- The hundreds digit (R173). -/
def bcdHundreds (b : Byte) : Byte := BitVec.ofNat 8 (b.toNat / 100)

/-- The tens digit (R173). -/
def bcdTens (b : Byte) : Byte := BitVec.ofNat 8 (b.toNat / 10 % 10)

/-- The ones digit (R173). -/
def bcdOnes (b : Byte) : Byte := BitVec.ofNat 8 (b.toNat % 10)

/-- The column of a sprite's origin (R193). -/
def originX (vx : Byte) : Nat := vx.toNat % 64

/-- The row of a sprite's origin (R193). -/
def originY (vy : Byte) : Nat := vy.toNat % 32

/-- The sprite byte of row `r` (R191). -/
def State.spriteByte (s : State) (r : Nat) : Byte := s.byteAt (s.indexed r)

end Sys2Proof.Machine
end

