-- ==== Sys2Proof/Machine/Alu.lean ====
section
/-! DEFINITION. Register arithmetic and logic: 6XNN, 7XNN, 8XY0 to 8XYE, CXNN (42_alu.md). -/

namespace Sys2Proof.Machine

/-- 6XNN: load immediate (R140). -/
def execLdImm (x : Reg) (nn : Byte) (s : State) : Outcome := .next (s.setReg x nn).advance

/-- 7XNN: add immediate modulo 256, no flag (R141). -/
def execAddImm (x : Reg) (nn : Byte) (s : State) : Outcome := .next (s.setReg x (s.reg x + nn)).advance

/-- 8XY0: copy register (R142). -/
def execLdReg (x y : Reg) (s : State) : Outcome := .next (s.setReg x (s.reg y)).advance

/-- 8XY1: bitwise OR, no flag (R143). -/
def execOrReg (x y : Reg) (s : State) : Outcome := .next (s.setReg x (s.reg x ||| s.reg y)).advance

/-- 8XY2: bitwise AND, no flag (R144). -/
def execAndReg (x y : Reg) (s : State) : Outcome := .next (s.setReg x (s.reg x &&& s.reg y)).advance

/-- 8XY3: bitwise exclusive OR, no flag (R145). -/
def execXorReg (x y : Reg) (s : State) : Outcome := .next (s.setReg x (s.reg x ^^^ s.reg y)).advance

/-- 8XY4: add, VF the carry (R146). -/
def execAddReg (x y : Reg) (s : State) : Outcome :=
  .next (s.setRegThenFlag x (s.reg x + s.reg y) (carryFlag (s.reg x) (s.reg y))).advance

/-- 8XY5: VX minus VY, VF the not-borrow (R147). -/
def execSub (x y : Reg) (s : State) : Outcome :=
  .next (s.setRegThenFlag x (s.reg x - s.reg y) (notBorrowFlag (s.reg x) (s.reg y))).advance

/-- 8XY6: VX is VY shifted right by one, VF the bit shifted out (R148). -/
def execShr (x y : Reg) (s : State) : Outcome :=
  .next (s.setRegThenFlag x (s.reg y >>> 1) (shiftedOutRight (s.reg y))).advance

/-- 8XY7: VY minus VX, VF the not-borrow (R149). -/
def execSubn (x y : Reg) (s : State) : Outcome :=
  .next (s.setRegThenFlag x (s.reg y - s.reg x) (notBorrowFlag (s.reg y) (s.reg x))).advance

/-- 8XYE: VX is VY shifted left by one, VF the bit shifted out (R150). -/
def execShl (x y : Reg) (s : State) : Outcome :=
  .next (s.setRegThenFlag x (s.reg y <<< 1) (shiftedOutLeft (s.reg y))).advance

/-- CXNN: a drawn byte masked by the immediate; the one instruction that consumes a draw (R151, R152, R246). -/
def execRnd (x : Reg) (nn : Byte) (s : State) : Outcome :=
  .next (s.consumeRandom.setReg x (s.randomByte &&& nn)).advance

end Sys2Proof.Machine
end

