-- ==== Sys2Proof/Machine/ControlFlow.lean ====
section
/-! DEFINITION. Control flow: 00EE, 1NNN, 2NNN, 3XNN, 4XNN, 5XY0, 9XY0, BNNN (41_control_flow.md). -/

namespace Sys2Proof.Machine

/-- 00EE: pop a return address into PC; `StackUnderflow` on an empty stack (R120). -/
def execRet (s : State) : Outcome :=
  match s.stack with
  | [] => raise .stackUnderflow s
  | a :: _ => .next (s.dropTop.jumpTo a)

/-- 1NNN: jump (R121). -/
def execJp (nnn : Addr) (s : State) : Outcome := .next (s.jumpTo (zextNNN nnn))

/-- 2NNN: push the address of the following instruction and jump; `StackOverflow` when 16 entries are already there
(R122; log entry 9). -/
def execCall (nnn : Addr) (s : State) : Outcome :=
  if Config.stackDepth ≤ s.stack.length then raise .stackOverflow s
  else .next ((s.push (s.pc + 2)).jumpTo (zextNNN nnn))

/-- 3XNN: skip if equal to immediate (R123). -/
def execSeImm (x : Reg) (nn : Byte) (s : State) : Outcome := .next (s.skipIf (s.reg x == nn))

/-- 4XNN: skip if not equal to immediate (R124). -/
def execSneImm (x : Reg) (nn : Byte) (s : State) : Outcome := .next (s.skipIf (s.reg x != nn))

/-- 5XY0: skip if registers equal (R125). -/
def execSeReg (x y : Reg) (s : State) : Outcome := .next (s.skipIf (s.reg x == s.reg y))

/-- 9XY0: skip if registers not equal (R126). -/
def execSneReg (x y : Reg) (s : State) : Outcome := .next (s.skipIf (s.reg x != s.reg y))

/-- BNNN: jump to `V0 + NNN`, always V0 (R127). -/
def execJpV0 (nnn : Addr) (s : State) : Outcome := .next (s.jumpTo (offsetTarget (s.reg 0) nnn))

end Sys2Proof.Machine
end

