-- ==== Sys2Proof/Machine/Display.lean ====
section
/-! DEFINITION. Display: 00E0 and DXYN (44_display.md). -/

namespace Sys2Proof.Machine

/-- 00E0: every pixel dark (R190). -/
def execCls (s : State) : Outcome := .next (s.setFb Framebuffer.dark).advance

/-- The framebuffer and the collision of a draw of `n` rows from I at the origin the two bytes give, under either
value of `DRAW_EDGE` (R191, R193, R194). -/
def State.drawSprite (s : State) (e : DrawEdge) (vx vy : Byte) (n : Nat) : Canvas :=
  Canvas.drawRows e s.spriteByte (originX vx) (originY vy) n { fb := s.fb, hit := false }

/-- The state after a draw: the new framebuffer, and VF the collision (R191, R195). -/
def State.afterDraw (s : State) (c : Canvas) : State := (s.setFb c.fb).setReg VF (flagByte c.hit)

/-- DXYN: draw an 8-pixel-wide, N-row sprite by XOR, with the spec's `DRAW_EDGE` (R191). -/
def execDrw (x y : Reg) (n : Fin 16) (s : State) : Outcome :=
  .next (s.afterDraw (s.drawSprite drawEdge (s.reg x) (s.reg y) n.val)).advance

end Sys2Proof.Machine
end

