-- ==== Sys2Proof/Machine/Index.lean ====
section
/-! DEFINITION. Index register and memory transfer: ANNN, FX1E, FX29, FX33, FX55, FX65 (43_index_memory.md). -/

namespace Sys2Proof.Machine

/-- ANNN: load index register (R170). -/
def execLdI (nnn : Addr) (s : State) : Outcome := .next (s.setI (zextNNN nnn)).advance

/-- FX1E: add VX to I modulo 2^16, VF whether the unbounded sum exceeds 0xFFF (R171). -/
def execAddIVx (x : Reg) (s : State) : Outcome :=
  .next ((s.setI (s.i + (s.reg x).setWidth 16)).setReg VF (rangeFlag s.i (s.reg x))).advance

/-- FX29: I is the address of glyph VX (R172). -/
def execLdFVx (x : Reg) (s : State) : Outcome := .next (s.setI (glyphAddr (s.reg x))).advance

/-- FX33: the decimal digits of VX at I, I+1, I+2 (R173). -/
def execLdBVx (x : Reg) (s : State) : Outcome :=
  .next (((s.setByte (s.indexed 0) (bcdHundreds (s.reg x))).setByte (s.indexed 1) (bcdTens (s.reg x))).setByte
    (s.indexed 2) (bcdOnes (s.reg x))).advance

/-- Store the first `n` registers at I, ascending (R174). -/
def State.storeRegs (s : State) : Nat → State
  | 0 => s
  | k + 1 => (s.storeRegs k).setByte (s.indexed k) (s.reg (Fin.ofNat 16 k))

/-- Load the first `n` registers from I, ascending (R175). -/
def State.loadRegs (s : State) : Nat → State
  | 0 => s
  | k + 1 => (s.loadRegs k).setReg (Fin.ofNat 16 k) (s.byteAt (s.indexed k))

/-- FX55: store V0..VX, X included; I unchanged (R174). -/
def execLdMemVx (x : Reg) (s : State) : Outcome := .next (s.storeRegs (x.val + 1)).advance

/-- FX65: load V0..VX, X included; I unchanged (R175). -/
def execLdVxMem (x : Reg) (s : State) : Outcome := .next (s.loadRegs (x.val + 1)).advance

end Sys2Proof.Machine
end

