-- ==== Sys2Proof/Machine/KeysTimers.lean ====
section
/-! DEFINITION. Keys and timers: EX9E, EXA1, FX07, FX0A, FX15, FX18 (45_keys_timers.md). -/

namespace Sys2Proof.Machine

/-- EX9E: skip if key VX is pressed; `KeyIndexOutOfRange` when VX is 16 or more (R210, R212). -/
def execSkp (x : Reg) (s : State) : Outcome :=
  match s.keyAt (s.reg x) with
  | some pressed => .next (s.skipIf pressed)
  | none => raise .keyIndexOutOfRange s

/-- EXA1: skip if key VX is not pressed; `KeyIndexOutOfRange` when VX is 16 or more (R211, R212). -/
def execSknp (x : Reg) (s : State) : Outcome :=
  match s.keyAt (s.reg x) with
  | some pressed => .next (s.skipIf (!pressed))
  | none => raise .keyIndexOutOfRange s

/-- FX07: read the delay timer (R213). -/
def execLdVxDt (x : Reg) (s : State) : Outcome := .next (s.setReg x s.dt).advance

/-- FX0A: the lowest pressed key into VX; with no key pressed nothing changes, PC included (R214). -/
def execLdVxK (x : Reg) (s : State) : Outcome :=
  match s.firstKey with
  | some k => .next (s.setReg x (BitVec.ofNat 8 k.val)).advance
  | none => .next s

/-- FX15: set the delay timer (R215). -/
def execLdDtVx (x : Reg) (s : State) : Outcome := .next (s.setDt (s.reg x)).advance

/-- FX18: set the sound timer (R216). -/
def execLdStVx (x : Reg) (s : State) : Outcome := .next (s.setSt (s.reg x)).advance

end Sys2Proof.Machine
end

