-- ==== Sys2Proof/Machine/Step.lean ====
section
/-! DEFINITION. One STEP: admission, fetch, decode, the instruction (R100). -/

namespace Sys2Proof.Machine

/-- STEP (R100): refused while the fault latch is set (R101); an unsupported word raises `UnsupportedOpcode` (R103);
else the decoded instruction runs.  The byte a CXNN draws stands in the state (log entry 1). -/
def step (s : State) : Host.Outcome State Fault Refusal :=
  match s.fault with
  | some f => .refused (.sessionEnded f)
  | none =>
    match decodeWord s.fetchWord with
    | .ok i => exec i s
    | .error _ => raise .unsupportedOpcode s

/-- The state with an instruction's word, numbered as the opcode table numbers it, at the two bytes the next fetch
reads (log entry 11). -/
def State.withFetchWord (s : State) (nbits w : Nat) : State := s.placeWord (tableWord nbits w)

end Sys2Proof.Machine
end

