-- ==== Sys2Proof/Machine/Ports.lean ====
section
/-! DEFINITION. The host interface of the block: its seven ports (R247). -/

namespace Sys2Proof.Machine

/-- What a STEP returns to the host (R106). -/
inductive Status where
  | success
  | error (f : Fault)
  deriving DecidableEq, Repr

/-- A request of the host at one of the ports (R247). -/
inductive Request where
  | init
  | load (rom : List Byte)
  | step (rnd : Byte)
  | tick
  | render
  | setKey (k : Fin 16) (pressed : Bool)
  | readSt
  deriving DecidableEq, Repr

/-- What a port gives back (R247): nothing, a status, the filled render buffer, or the sound timer. -/
inductive Reply where
  | done
  | status (st : Status)
  | buffer (colours : List Nat)
  | sound (st : Byte)
  deriving DecidableEq, Repr

/-- The block: `none` before the first INIT, when there is no state to read (R40, R271). -/
abbrev Block := Option State

/-- The answer at a port: the block and a reply, or a refusal with no outcome. -/
inductive Answer where
  | served (b : Block) (r : Reply)
  | refused (r : Refusal)
  deriving DecidableEq, Repr

/-- `INIT()`: every piece of the core's state to its reset value (R270).  The random source is outside the core (R20),
so its position stays where it is (log entry 10). -/
def State.init (s : State) : State := { State.reset with randomIn := s.randomIn, draws := s.draws }

/-- `LOAD(rom)`: the font at `FONT_BASE`, then at most 3584 ROM bytes at 0x200 (R272, R273, R275). -/
def State.load (rom : List Byte) (s : State) : State :=
  State.setBytes Config.progStart (rom.take Config.maxRom) (State.setBytes fontBase fontData s)

/-- One count down, stopping at zero (R240). -/
def countDown (t : Byte) : Byte := if t = 0 then 0 else t - 1

/-- `TICK()`: both timers count down independently (R240). -/
def State.tick (s : State) : State := { s with dt := countDown s.dt, st := countDown s.st }

/-- `SETKEY(k, b)` (R244). -/
def State.setKey (k : Fin 16) (pressed : Bool) (s : State) : State :=
  { s with keys := s.keys.set k.val pressed k.isLt }

/-- The colour of a pixel (R196; log entry 7). -/
def colour (lit : Bool) : Nat := if lit then Config.onColor else Config.offColor

/-- `RENDER(buf)`: the buffer's 64 × 32 colours; entry `y * 64 + x` is the colour of pixel `(x, y)` (R196). -/
def State.render (s : State) : List Nat :=
  (List.range 2048).map fun k => colour (s.fb.pixel (Fin.ofNat 64 k) (Fin.ofNat 32 (k / 64)))

/-- The status a STEP from an admitted state returned, read off the fault latch it left (R106, R108; log entry 2). -/
def State.status (s : State) : Status :=
  match s.fault with
  | none => .success
  | some f => .error f

/-- `STEP(rnd)`: one step with `rnd` as the byte a CXNN draws; a byte no CXNN consumed is not kept (R100, R246). -/
def State.stepWith (rnd : Byte) (s : State) : Outcome :=
  match step { s with randomIn := [rnd] } with
  | .next t => .next { t with randomIn := s.randomIn }
  | .fault f => .fault f
  | .refused r => .refused r

/-- STEP at the port: the state after it and its status (R106). -/
def serveStep (rnd : Byte) (s : State) : Answer :=
  match s.stepWith rnd with
  | .next t => .served (some t) (.status t.status)
  | .fault f => .served (some { s with fault := some f }) (.status (.error f))
  | .refused r => .refused r

/-- A port on an initialized block. -/
def serveState (q : Request) (s : State) : Answer :=
  match q with
  | .init => .served (some s.init) .done
  | .load rom => .served (some (s.load rom)) .done
  | .step rnd => serveStep rnd s
  | .tick => .served (some s.tick) .done
  | .render => .served (some s) (.buffer s.render)
  | .setKey k pressed => .served (some (s.setKey k pressed)) .done
  | .readSt => .served (some s) (.sound s.st)

/-- A port of the block: before the first INIT only INIT has an outcome (R271). -/
def serve (q : Request) (b : Block) : Answer :=
  match b with
  | some s => serveState q s
  | none => if q = .init then .served (some State.reset) .done else .refused .notInitialized

end Sys2Proof.Machine
end

