-- ==== Sys2Proof/Safety.lean ====
section
/-! DEFINITION. What claims are stated in: the invariant, frames, the PC table of R104, a drawn sprite's pixels, and the
states the host can reach. -/

namespace Sys2Proof

/-- The V registers an instruction names as its destination, VF as a flag left out (R22). -/
def Instr.isDest (r : Reg) : Instr → Bool
  | .ldImm x _ | .addImm x _ | .ldReg x _ | .orReg x _ | .andReg x _ | .xorReg x _ | .addReg x _ | .sub x _
  | .shr x _ | .subn x _ | .shl x _ | .rnd x _ | .ldVxDt x | .ldVxK x => r == x
  | .ldVxMem x => r ≤ x
  | _ => false

/-- The instructions that write VF as a flag (R22). -/
def Instr.writesFlag : Instr → Bool
  | .addReg _ _ | .sub _ _ | .subn _ _ | .shr _ _ | .shl _ _ | .drw _ _ _ | .addIVx _ => true
  | _ => false

/-- The instructions that read the key flags (R35). -/
def Instr.readsKeys : Instr → Bool
  | .skp _ | .sknp _ | .ldVxK _ => true
  | _ => false

end Sys2Proof

namespace Sys2Proof.Machine

/-- The invariant every STEP and port keeps: memory in canonical form, at most 16 return addresses (R28). -/
abbrev State.Inv (s : State) : Prop := s.mem.wf ∧ s.stack.length ≤ 16

/-- The states of a block: reset, and whatever any sequence of ports makes of it (R242). -/
inductive Reachable : State → Prop where
  | reset : Reachable State.reset
  | port {s t : State} {q : Request} {r : Reply} :
    Reachable s → serveState q s = .served (some t) r → Reachable t

/-- The parts of the state other than the V registers. -/
inductive Part where
  | i | pc | stack | dt | st | mem | fb | keys | fault | random
  deriving DecidableEq, Repr

/-- `t` holds in a part what `s` holds there, memory byte by byte and the display pixel by pixel. -/
def Part.same (p : Part) (s t : State) : Prop :=
  match p with
  | .i => t.i = s.i
  | .pc => t.pc = s.pc
  | .stack => t.stack = s.stack
  | .dt => t.dt = s.dt
  | .st => t.st = s.st
  | .mem => ∀ a, t.byteAt a = s.byteAt a
  | .fb => ∀ x y, t.fb.pixel x y = s.fb.pixel x y
  | .keys => ∀ k, t.key k = s.key k
  | .fault => t.fault = s.fault
  | .random => t.randomIn = s.randomIn ∧ t.draws = s.draws

/-- Every part but the named ones is unchanged. -/
def KeepsAllBut (ps : List Part) (s t : State) : Prop := ∀ p, p ∉ ps → p.same s t

/-- Every V register but the named ones is unchanged. -/
def KeepsRegsBut (rs : List Reg) (s t : State) : Prop := ∀ r, r ∉ rs → t.reg r = s.reg r

/-- The frame of an instruction: only the named V registers, the named parts and PC may change. -/
def Frame (rs : List Reg) (ps : List Part) (s t : State) : Prop :=
  KeepsRegsBut rs s t ∧ KeepsAllBut (.pc :: ps) s t

/-- The instructions that may write a part, the "written by" column of R20: PC by every STEP, the key flags by none,
the fault latch by the four that can fail after decode, the random input by CXNN (R246). -/
def Part.writtenBy : Part → Instr → Bool
  | .i, .ldI _ | .i, .addIVx _ | .i, .ldFVx _ => true
  | .pc, _ => true
  | .stack, .call _ | .stack, .ret => true
  | .dt, .ldDtVx _ => true
  | .st, .ldStVx _ => true
  | .mem, .ldBVx _ | .mem, .ldMemVx _ => true
  | .fb, .cls | .fb, .drw _ _ _ => true
  | .fault, .ret | .fault, .call _ | .fault, .skp _ | .fault, .sknp _ => true
  | .random, .rnd _ _ => true
  | _, _ => false

/-- The PC after a STEP that succeeds, row by row of R104's table. -/
def PcAfter (i : Instr) (s t : State) : Prop :=
  match i with
  | .seImm x nn => t.pc = if s.reg x = nn then s.pc + 4 else s.pc + 2
  | .sneImm x nn => t.pc = if s.reg x = nn then s.pc + 2 else s.pc + 4
  | .seReg x y => t.pc = if s.reg x = s.reg y then s.pc + 4 else s.pc + 2
  | .sneReg x y => t.pc = if s.reg x = s.reg y then s.pc + 2 else s.pc + 4
  | .skp x => ∃ k : Fin 16, (s.reg x).toNat = k.val ∧ t.pc = if s.key k then s.pc + 4 else s.pc + 2
  | .sknp x => ∃ k : Fin 16, (s.reg x).toNat = k.val ∧ t.pc = if s.key k then s.pc + 2 else s.pc + 4
  | .jp nnn | .call nnn => t.pc.toNat = nnn.toNat
  | .jpV0 nnn => t.pc.toNat = (s.reg 0).toNat + nnn.toNat
  | .ret => s.stack.head? = some t.pc
  | .ldVxK _ => ((∀ k, s.key k = false) → t.pc = s.pc) ∧ ((∃ k, s.key k = true) → t.pc = s.pc + 2)
  | _ => t.pc = s.pc + 2

/-- A set bit of the sprite of `n` rows that DXYN reads from I falls on display pixel `(px, py)`: column `x0 + c` and
row `y0 + r` as they are under `clip`, modulo the display size under `wrap` (R191 to R194). -/
def SpriteCovers (e : DrawEdge) (s : State) (vx vy : Byte) (n : Nat) (px : Fin 64) (py : Fin 32) : Prop :=
  ∃ r c : Nat, r < n ∧ c < 8 ∧ (s.byteAt (s.i.toNat + r)).getLsbD (7 - c) = true ∧
    match e with
    | .clip => vx.toNat % 64 + c = px.val ∧ vy.toNat % 32 + r = py.val
    | .wrap => (vx.toNat % 64 + c) % 64 = px.val ∧ (vy.toNat % 32 + r) % 32 = py.val

/-- `n` bytes stored from I up in `s`, byte `k` being `b k`: each half of the word fetched at `s`'s PC + 2 in `t` is the
stored byte that reaches it, or what memory held when none does (R65, R176). -/
def FetchesWhatWasStored (n : Nat) (b : Nat → Byte) (s t : State) : Prop :=
  t.pc = s.pc + 2 ∧
  (∀ k < n, s.indexed k % 4096 = (s.pc.toNat + 2) % 4096 → highByte t.fetchWord = b k) ∧
  (∀ k < n, s.indexed k % 4096 = (s.pc.toNat + 3) % 4096 → lowByte t.fetchWord = b k) ∧
  ((∀ k < n, s.indexed k % 4096 ≠ (s.pc.toNat + 2) % 4096) → highByte t.fetchWord = s.byteAt (s.pc.toNat + 2)) ∧
  ((∀ k < n, s.indexed k % 4096 ≠ (s.pc.toNat + 3) % 4096) → lowByte t.fetchWord = s.byteAt (s.pc.toNat + 3))

/-- The operands an instruction carries are the fields of the word, for each field it has (R71). -/
def TakesFieldsOf (i : Instr) (w : Word) : Prop :=
  (∀ v, i.fields.x = some v → v = field w 8 4) ∧ (∀ v, i.fields.y = some v → v = field w 4 4) ∧
  (∀ v, i.fields.n = some v → v = field w 0 4) ∧ (∀ v, i.fields.nn = some v → v = field w 0 8) ∧
  (∀ v, i.fields.nnn = some v → v = field w 0 12)

/-- The words R75 lists as unsupported, by family. -/
def UnsupportedWord (w : Word) : Prop :=
  (field w 12 4 = 0x0 ∧ w ≠ 0x00E0 ∧ w ≠ 0x00EE) ∨
  (field w 12 4 = 0x5 ∧ field w 0 4 ≠ 0) ∨
  (field w 12 4 = 0x8 ∧ field w 0 4 ∈ [0x8, 0x9, 0xA, 0xB, 0xC, 0xD, 0xF]) ∨
  (field w 12 4 = 0x9 ∧ field w 0 4 ≠ 0) ∨
  (field w 12 4 = 0xE ∧ field w 0 8 ∉ [0x9E, 0xA1]) ∨
  (field w 12 4 = 0xF ∧ field w 0 8 ∉ [0x07, 0x0A, 0x15, 0x18, 0x1E, 0x29, 0x33, 0x55, 0x65])

end Sys2Proof.Machine
end

