-- ==== Sys2Proof/Certificates/Slice0/Obligations.lean ====
section
/-! DEFINITION. The statements about the model, from the numbered rules of spec/. -/

open Sys2Proof Sys2Proof.Machine

/-! ## Reset and the ports before it -/

/-- R270, R40: INIT, on a block in any condition, leaves every piece of state at its reset value. -/
def Obligations.InitLeavesEveryResetValue : Prop :=
  ∀ b : Block, ∃ t, serve .init b = .served (some t) .done ∧
    (∀ r, t.reg r = 0x00) ∧ t.i = 0x0000 ∧ t.pc = 0x0200 ∧ t.stack = [] ∧ t.dt = 0x00 ∧ t.st = 0x00 ∧
    (∀ a, t.byteAt a = 0x00) ∧ (∀ x y, t.fb.pixel x y = false) ∧ (∀ k, t.key k = false) ∧ t.fault = none

/-- R271: before the first INIT every other operation is refused. -/
def Obligations.OnlyInitIsServedBeforeInit : Prop :=
  ∀ q : Request, q ≠ .init → serve q none = .refused .notInitialized

/-! ## Invariants -/

/-- The reset state has canonical memory and at most 16 return addresses (R28, R40). -/
def Obligations.ResetMeetsTheInvariant : Prop := State.reset.Inv

/-- From every state that meets the invariant, reachable or not, a STEP leads to one that meets it (R28, R50). -/
def Obligations.StepKeepsTheInvariant : Prop :=
  ∀ s t : State, s.Inv → step s = .next t → t.Inv

/-- Every port keeps the invariant (R28, R247). -/
def Obligations.PortsKeepTheInvariant : Prop :=
  ∀ (q : Request) (s t : State) (r : Reply), s.Inv → serveState q s = .served (some t) r → t.Inv

/-- Whatever the host does through the ports, in any order, the invariant holds (R242, R28). -/
def Obligations.ReachableStatesMeetTheInvariant : Prop := ∀ s : State, Reachable s → s.Inv

/-- Canonical memories that read alike are equal, so equal memories are equal data (R57; log entry 14). -/
def Obligations.CanonicalMemoriesThatReadAlikeAreEqual : Prop :=
  ∀ m m' : Memory, m.wf → m'.wf → (∀ a, m.read a = m'.read a) → m = m'

/-! ## Encoding -/

/-- Decoding the word of an instruction gives the instruction back, for every operand value (R71, R74). -/
def Obligations.DecodeOfEncodeIsTheInstruction : Prop := ∀ i : Instr, decodeWord (encode i) = .ok i

/-- The word an instruction was decoded from is its only encoding (R74, R78). -/
def Obligations.EncodeOfDecodeIsTheWord : Prop :=
  ∀ (w : Word) (i : Instr), decodeWord w = .ok i → encode i = w

/-- R74: the family dispatch decodes exactly as the mask and match table does; the table has 34 rows and no word
belongs to two.  The operands are the word's fields (R71). -/
def Obligations.DecoderFollowsTheOpcodeTable : Prop :=
  opcodeRows.length = 34 ∧
  (∀ w, ∀ r ∈ opcodeRows, ∀ r' ∈ opcodeRows, r.accepts w = true → r'.accepts w = true → r = r') ∧
  (∀ w i, decodeWord w = .ok i →
    TakesFieldsOf i w ∧ ∃ r ∈ opcodeRows, r.accepts w = true ∧ r.mnemonic = i.mnemonic) ∧
  (∀ w, ∀ r ∈ opcodeRows, r.accepts w = true → ∃ i, decodeWord w = .ok i ∧ i.mnemonic = r.mnemonic)

/-- The words R75 lists by family are exactly the undecodable ones, and a STEP that fetches one raises
`UnsupportedOpcode` and changes nothing else. -/
def Obligations.ExactlyTheListedWordsAreUnsupported : Prop :=
  (∀ w, (∃ e, decodeWord w = .error e) ↔ UnsupportedWord w) ∧
  (∀ s : State, s.fault = none → UnsupportedWord s.fetchWord →
    step s = .next { s with fault := some .unsupportedOpcode })

/-- Words of 95_test_vectors.md, one or more per family, decode to the instructions they are listed as. -/
def Obligations.WordsOfTheSpecDecode : Prop :=
  decodeWord 0x00E0 = .ok .cls ∧ decodeWord 0x2ABC = .ok (.call 0xABC) ∧ decodeWord 0x3342 = .ok (.seImm 3 0x42) ∧
  decodeWord 0x8125 = .ok (.sub 1 2) ∧ decodeWord 0x812E = .ok (.shl 1 2) ∧ decodeWord 0xBFFF = .ok (.jpV0 0xFFF) ∧
  decodeWord 0xDAB5 = .ok (.drw 0xA 0xB 5) ∧ decodeWord 0xE3A1 = .ok (.sknp 3) ∧ decodeWord 0xFF65 = .ok (.ldVxMem 0xF)

/-! ## The step -/

/-- A STEP of an admitted state runs the instruction its word decodes to (R100, R103). -/
def Obligations.StepRunsTheDecodedInstruction : Prop :=
  ∀ (s : State) (i : Instr), s.fault = none → decodeWord s.fetchWord = .ok i → step s = exec i s

/-- An instruction's word placed at PC is fetched, decoded and run, wherever PC is (R54, R55, R100). -/
def Obligations.PlacedInstructionRuns : Prop :=
  ∀ (s : State) (i : Instr), s.Inv → s.fault = none →
    step (s.withFetchWord 16 (encode i).toNat) = exec i (s.withFetchWord 16 (encode i).toNat)

/-- R102: the fetched word is big-endian from the two bytes at PC, each address masked to 12 bits. -/
def Obligations.FetchIsBigEndianAndMasked : Prop :=
  ∀ s : State,
    s.fetchWord.toNat = 256 * (s.byteAt (s.pc.toNat % 4096)).toNat + (s.byteAt ((s.pc.toNat + 1) % 4096)).toNat

/-- R101: STEP is admitted only after INIT and only while the fault latch is none; an admitted STEP has an outcome, any
other is refused, at the port as in `step`. -/
def Obligations.StepIsAdmittedOnlyWhileTheLatchIsNone : Prop :=
  (∀ rnd, serve (.step rnd) none = .refused .notInitialized) ∧
  (∀ s : State, s.fault = none → ∃ t, step s = .next t) ∧
  (∀ (s : State) (f : Fault), s.fault = some f → step s = .refused (.sessionEnded f)) ∧
  (∀ (s : State) (f : Fault) (rnd : Byte), s.fault = some f →
    serve (.step rnd) (some s) = .refused (.sessionEnded f))

/-- The latch is never cleared except by INIT (R37, R236): a faulted block keeps its error through every other port, INIT
leaves a reset state, and no port but STEP sets an error (R231).  That INIT leaves the model's own random fields where
they are is the model's choice (log entry 10). -/
def Obligations.OnlyInitClearsTheLatch : Prop :=
  (∀ (q : Request) (s t : State) (r : Reply) (f : Fault), s.fault = some f → q ≠ .init →
    serve q (some s) = .served (some t) r → t.fault = some f) ∧
  (∀ s : State, serve .init (some s) =
    .served (some { State.reset with randomIn := s.randomIn, draws := s.draws }) .done) ∧
  (∀ (q : Request) (s t : State) (r : Reply), q ≠ .init → (∀ rnd, q ≠ .step rnd) →
    serve q (some s) = .served (some t) r → t.fault = s.fault)

/-- The STEP port returns `Success` when the step set no error and the error's own status when it did (R106, R108). -/
def Obligations.StepPortReturnsTheStatus : Prop :=
  ∀ (s : State) (rnd : Byte), s.fault = none → ∃ t st, serve (.step rnd) (some s) = .served (some t) (.status st) ∧
    (st = .success ↔ t.fault = none) ∧ ∀ f, st = .error f ↔ t.fault = some f

/-- R105: a STEP that returns an error changes no state but the fault latch. -/
def Obligations.ErrorChangesOnlyTheLatch : Prop :=
  ∀ (s t : State) (f : Fault), step s = .next t → t.fault = some f → t = { s with fault := some f }

/-- Each error is raised by its cause and by nothing else (R231, R233).  R122 overflows at depth 16; that a deeper stack,
which R28 excludes and no run reaches, overflows too is the model's choice (DESIGN CHOICE, log entry 9). -/
def Obligations.ErrorsHaveExactlyTheirCauses : Prop :=
  ∀ s t : State, step s = .next t →
    (t.fault = some .unsupportedOpcode ↔ UnsupportedWord s.fetchWord) ∧
    (t.fault = some .stackUnderflow ↔ decodeWord s.fetchWord = .ok .ret ∧ s.stack = []) ∧
    (t.fault = some .stackOverflow ↔
      (∃ nnn, decodeWord s.fetchWord = .ok (.call nnn)) ∧ 16 ≤ s.stack.length) ∧
    (t.fault = some .keyIndexOutOfRange ↔
      ∃ x, (decodeWord s.fetchWord = .ok (.skp x) ∨ decodeWord s.fetchWord = .ok (.sknp x)) ∧ 16 ≤ (s.reg x).toNat)

/-- R104: PC after every STEP, row by row of the rule's table. -/
def Obligations.PcAfterEveryStep : Prop :=
  (∀ (s t : State) (i : Instr), decodeWord s.fetchWord = .ok i → step s = .next t → t.fault = none → PcAfter i s t) ∧
  (∀ s t : State, step s = .next t → t.fault ≠ none → t.pc = s.pc)

/-! ## Whole-machine frames -/

/-- Each part of the state is written only by the instructions R20 lists for it. -/
def Obligations.PartsAreWrittenOnlyByTheirInstructions : Prop :=
  ∀ (p : Part) (i : Instr) (s t : State), exec i s = .next t → p.writtenBy i = false → p.same s t

/-- A V register changes only as a destination, or as VF under a flag-writing instruction, whose flag is 0 or 1
(R21, R22). -/
def Obligations.RegistersChangeOnlyAsDestinationOrFlag : Prop :=
  ∀ (i : Instr) (s t : State), exec i s = .next t →
    (∀ r, i.isDest r = false → (r = VF → i.writesFlag = false) → t.reg r = s.reg r) ∧
    (i.writesFlag = true → t.reg VF = 0 ∨ t.reg VF = 1)

/-- Only EX9E, EXA1 and FX0A read the key flags: any other instruction does the same whatever keys are pressed (R35). -/
def Obligations.KeysMatterOnlyToKeyInstructions : Prop :=
  ∀ (i : Instr) (s t : State) (ks : Vector Bool 16), i.readsKeys = false → exec i s = .next t →
    exec i { s with keys := ks } = .next { t with keys := ks }

/-- No instruction reads ST: what it held before shows nowhere but in ST itself (R31). -/
def Obligations.NoInstructionReadsTheSoundTimer : Prop :=
  ∀ (i : Instr) (s t : State) (b : Byte), exec i s = .next t →
    ∃ u, exec i { s with st := b } = .next u ∧ { u with st := t.st } = t

/-! ## Control flow -/

/-- R120: RET pops the most recent return address into PC; on an empty stack it raises `StackUnderflow`. -/
def Obligations.ReturnPopsTheStack : Prop :=
  (∀ (s : State) (a : Word) (rest : List Word), s.stack = a :: rest →
    ∃ t, exec .ret s = .next t ∧ t.pc = a ∧ t.stack = rest ∧ Frame [] [.stack] s t) ∧
  (∀ s : State, s.stack = [] → exec .ret s = .next { s with fault := some .stackUnderflow })

/-- R122: CALL pushes PC + 2 and jumps; with 16 entries it raises `StackOverflow`. -/
def Obligations.CallPushesTheReturnAddress : Prop :=
  (∀ (s : State) (nnn : Addr), s.stack.length < 16 →
    ∃ t, exec (.call nnn) s = .next t ∧ t.stack = (s.pc + 2) :: s.stack ∧ t.pc.toNat = nnn.toNat ∧
      Frame [] [.stack] s t) ∧
  (∀ (s : State) (nnn : Addr), s.stack.length = 16 →
    exec (.call nnn) s = .next { s with fault := some .stackOverflow })

/-- A RET right after a CALL goes on at the word after the call, with the stack as it was (R120, R122). -/
def Obligations.CallThenReturnComesBack : Prop :=
  ∀ (s : State) (nnn : Addr), s.stack.length < 16 →
    ∃ t u, exec (.call nnn) s = .next t ∧ exec .ret t = .next u ∧ u.pc = s.pc + 2 ∧ Frame [] [] s u

/-- R121, R127: the jumps set PC to NNN, and to V0 + NNN unmasked; nothing else changes. -/
def Obligations.JumpsSetThePc : Prop :=
  ∀ (s : State) (nnn : Addr),
    (∃ t, exec (.jp nnn) s = .next t ∧ t.pc.toNat = nnn.toNat ∧ Frame [] [] s t) ∧
    (∃ t, exec (.jpV0 nnn) s = .next t ∧ t.pc.toNat = (s.reg 0).toNat + nnn.toNat ∧ Frame [] [] s t)

/-- R123, R124, R125, R126: the comparing skips, PC + 4 when taken and PC + 2 when not; nothing else changes. -/
def Obligations.ComparisonsSkip : Prop :=
  ∀ (s : State) (x y : Reg) (nn : Byte),
    (∃ t, exec (.seImm x nn) s = .next t ∧ t.pc = (if s.reg x = nn then s.pc + 4 else s.pc + 2) ∧ Frame [] [] s t) ∧
    (∃ t, exec (.sneImm x nn) s = .next t ∧ t.pc = (if s.reg x ≠ nn then s.pc + 4 else s.pc + 2) ∧ Frame [] [] s t) ∧
    (∃ t, exec (.seReg x y) s = .next t ∧ t.pc = (if s.reg x = s.reg y then s.pc + 4 else s.pc + 2) ∧
      Frame [] [] s t) ∧
    (∃ t, exec (.sneReg x y) s = .next t ∧ t.pc = (if s.reg x ≠ s.reg y then s.pc + 4 else s.pc + 2) ∧
      Frame [] [] s t)

/-! ## Arithmetic and logic -/

/-- R140, R142: VX becomes NN, or VY. -/
def Obligations.LoadsAndCopiesSetTheRegister : Prop :=
  ∀ (s : State) (x y : Reg) (nn : Byte),
    (∃ t, exec (.ldImm x nn) s = .next t ∧ t.reg x = nn ∧ t.pc = s.pc + 2 ∧ Frame [x] [] s t) ∧
    (∃ t, exec (.ldReg x y) s = .next t ∧ t.reg x = s.reg y ∧ t.pc = s.pc + 2 ∧ Frame [x] [] s t)

/-- R141: VX becomes VX + NN modulo 256 and no flag is set. -/
def Obligations.AddImmediateWrapsWithoutFlag : Prop :=
  ∀ (s : State) (x : Reg) (nn : Byte), ∃ t, exec (.addImm x nn) s = .next t ∧
    (t.reg x).toNat = ((s.reg x).toNat + nn.toNat) % 256 ∧ t.pc = s.pc + 2 ∧ Frame [x] [] s t

/-- R143, R144, R145: VX becomes VX or, and, exclusive or VY, bit by bit, and no flag is set. -/
def Obligations.LogicIsBitwiseWithoutFlag : Prop :=
  ∀ (s : State) (x y : Reg),
    (∃ t, exec (.orReg x y) s = .next t ∧
      (∀ k, (t.reg x).getLsbD k = ((s.reg x).getLsbD k || (s.reg y).getLsbD k)) ∧
      t.pc = s.pc + 2 ∧ Frame [x] [] s t) ∧
    (∃ t, exec (.andReg x y) s = .next t ∧
      (∀ k, (t.reg x).getLsbD k = ((s.reg x).getLsbD k && (s.reg y).getLsbD k)) ∧
      t.pc = s.pc + 2 ∧ Frame [x] [] s t) ∧
    (∃ t, exec (.xorReg x y) s = .next t ∧
      (∀ k, (t.reg x).getLsbD k = ((s.reg x).getLsbD k ^^ (s.reg y).getLsbD k)) ∧
      t.pc = s.pc + 2 ∧ Frame [x] [] s t)

/-- R146: VX becomes VX + VY modulo 256; VF, written last, is 1 exactly when the sum exceeds 255. -/
def Obligations.AddSetsTheCarry : Prop :=
  ∀ (s : State) (x y : Reg), ∃ t, exec (.addReg x y) s = .next t ∧
    (x ≠ VF → (t.reg x).toNat = ((s.reg x).toNat + (s.reg y).toNat) % 256) ∧
    t.reg VF = (if (s.reg x).toNat + (s.reg y).toNat > 255 then 1 else 0) ∧
    t.pc = s.pc + 2 ∧ Frame [x, VF] [] s t

/-- R147, R149: VX becomes VX - VY, or VY - VX, modulo 256; VF, written last, is 0 exactly on a borrow. -/
def Obligations.SubtractionsSetTheNotBorrow : Prop :=
  ∀ (s : State) (x y : Reg),
    (∃ t, exec (.sub x y) s = .next t ∧
      (x ≠ VF → (t.reg x).toNat = ((s.reg x).toNat + 256 - (s.reg y).toNat) % 256) ∧
      t.reg VF = (if (s.reg y).toNat > (s.reg x).toNat then 0 else 1) ∧
      t.pc = s.pc + 2 ∧ Frame [x, VF] [] s t) ∧
    (∃ t, exec (.subn x y) s = .next t ∧
      (x ≠ VF → (t.reg x).toNat = ((s.reg y).toNat + 256 - (s.reg x).toNat) % 256) ∧
      t.reg VF = (if (s.reg y).toNat < (s.reg x).toNat then 0 else 1) ∧
      t.pc = s.pc + 2 ∧ Frame [x, VF] [] s t)

/-- R148, R150: VX becomes VY shifted by one; VF, written last, is the bit shifted out of VY. -/
def Obligations.ShiftsMoveVyByOne : Prop :=
  ∀ (s : State) (x y : Reg),
    (∃ t, exec (.shr x y) s = .next t ∧
      (x ≠ VF → (t.reg x).toNat = (s.reg y).toNat / 2) ∧
      (t.reg VF).toNat = (s.reg y).toNat % 2 ∧
      t.pc = s.pc + 2 ∧ Frame [x, VF] [] s t) ∧
    (∃ t, exec (.shl x y) s = .next t ∧
      (x ≠ VF → (t.reg x).toNat = 2 * (s.reg y).toNat % 256) ∧
      (t.reg VF).toNat = (s.reg y).toNat / 128 ∧
      t.pc = s.pc + 2 ∧ Frame [x, VF] [] s t)

/-- VX becomes the drawn byte masked by NN (R151), and the draw is consumed (R152, R246).  Where the byte comes from is
the model's choice (DESIGN CHOICE, log entry 1): the first byte the host has supplied, which then leaves the queue; with
none supplied a free value, and the next free draw has another index. -/
def Obligations.RandomByteIsMasked : Prop :=
  ∀ (s : State) (x : Reg) (nn : Byte), ∃ t, exec (.rnd x nn) s = .next t ∧
    t.reg x = (s.randomByte &&& nn) ∧
    (∀ r rest, s.randomIn = r :: rest → t.reg x = (r &&& nn) ∧ t.randomIn = rest ∧ t.draws = s.draws) ∧
    (s.randomIn = [] →
      t.reg x = (Config.randomByte s.draws &&& nn) ∧ t.randomIn = [] ∧ t.draws = s.draws + 1) ∧
    t.pc = s.pc + 2 ∧ Frame [x] [.random] s t

/-- STEP(rnd): a CXNN uses the host's byte, for every byte; no other instruction's STEP depends on it
(R109, R152, R246). -/
def Obligations.StepPortSuppliesTheDraw : Prop :=
  ∀ s : State, s.fault = none →
    (∀ x nn rnd, decodeWord s.fetchWord = .ok (.rnd x nn) →
      ∃ t, serve (.step rnd) (some s) = .served (some t) (.status .success) ∧ t.reg x = (rnd &&& nn) ∧
        Frame [x] [] s t) ∧
    ((∀ x nn, decodeWord s.fetchWord ≠ .ok (.rnd x nn)) →
      ∀ rnd rnd', serve (.step rnd) (some s) = serve (.step rnd') (some s))

/-! ## Index register and memory -/

/-- R170: I becomes NNN. -/
def Obligations.LoadIndexSetsI : Prop :=
  ∀ (s : State) (nnn : Addr), ∃ t, exec (.ldI nnn) s = .next t ∧ t.i.toNat = nnn.toNat ∧ t.pc = s.pc + 2 ∧
    Frame [] [.i] s t

/-- R171: I becomes I + VX modulo 2^16; VF is 1 exactly when the unbounded sum exceeds 0xFFF. -/
def Obligations.AddToIndexSetsTheRangeFlag : Prop :=
  ∀ (s : State) (x : Reg), ∃ t, exec (.addIVx x) s = .next t ∧
    t.i.toNat = (s.i.toNat + (s.reg x).toNat) % 65536 ∧
    t.reg VF = (if s.i.toNat + (s.reg x).toNat > 0xFFF then 1 else 0) ∧ t.pc = s.pc + 2 ∧ Frame [VF] [.i] s t

/-- I becomes FONT_BASE + 5 * VX with the full byte VX (R172), for whatever FONT_BASE the implementation has.  That the
font ends by 0x200 is R60's constraint on the open parameter (D1), which the model's constant carries (DESIGN CHOICE, log
entry 4). -/
def Obligations.GlyphAddressIsFontBasePlusFiveVx : Prop :=
  fontBase + 80 ≤ 0x200 ∧
  ∀ (s : State) (x : Reg), ∃ t, exec (.ldFVx x) s = .next t ∧
    t.i.toNat = (fontBase + 5 * (s.reg x).toNat) % 65536 ∧ t.pc = s.pc + 2 ∧ Frame [] [.i] s t

/-- R173: the decimal digits of VX at I, I + 1, I + 2, each address masked; every other byte is unchanged. -/
def Obligations.DecimalDigitsAreStored : Prop :=
  ∀ (s : State) (x : Reg), s.Inv → ∃ t, exec (.ldBVx x) s = .next t ∧
    (t.byteAt (s.indexed 0)).toNat = (s.reg x).toNat / 100 ∧
    (t.byteAt (s.indexed 1)).toNat = (s.reg x).toNat / 10 % 10 ∧
    (t.byteAt (s.indexed 2)).toNat = (s.reg x).toNat % 10 ∧
    (∀ a, (∀ k < 3, a % 4096 ≠ s.indexed k % 4096) → t.byteAt a = s.byteAt a) ∧
    t.pc = s.pc + 2 ∧ Frame [] [.mem] s t

/-- R174: V0..VX are stored from I up, each address masked; every other byte and I are unchanged. -/
def Obligations.RegistersAreStored : Prop :=
  ∀ (s : State) (x : Reg), s.Inv → ∃ t, exec (.ldMemVx x) s = .next t ∧
    (∀ r : Reg, r ≤ x → t.byteAt (s.indexed r.val) = s.reg r) ∧
    (∀ a, (∀ r : Reg, r ≤ x → a % 4096 ≠ s.indexed r.val % 4096) → t.byteAt a = s.byteAt a) ∧
    t.pc = s.pc + 2 ∧ Frame [] [.mem] s t

/-- R175: V0..VX are loaded from I up; every other register, memory and I are unchanged. -/
def Obligations.RegistersAreLoaded : Prop :=
  ∀ (s : State) (x : Reg), ∃ t, exec (.ldVxMem x) s = .next t ∧
    (∀ r : Reg, t.reg r = if r ≤ x then s.byteAt (s.indexed r.val) else s.reg r) ∧
    t.pc = s.pc + 2 ∧ KeepsAllBut [.pc] s t

/-- A byte that FX33 or FX55 stores where the next STEP fetches is what it fetches, whichever byte of the store reaches
whichever half of the word (R65, R279); a half that the store does not reach is fetched as memory held it. -/
def Obligations.StoredCodeIsFetchedNext : Prop :=
  ∀ (s t : State) (x : Reg), s.Inv →
    (exec (.ldMemVx x) s = .next t → FetchesWhatWasStored (x.val + 1) (fun k => s.reg (Fin.ofNat 16 k)) s t) ∧
    (exec (.ldBVx x) s = .next t →
      FetchesWhatWasStored 3 (fun k => BitVec.ofNat 8 ((s.reg x).toNat / 10 ^ (2 - k) % 10)) s t)

/-! ## Display -/

/-- R190: every pixel becomes dark; VF and everything else is unchanged. -/
def Obligations.ClearDarkensTheDisplay : Prop :=
  ∀ s : State, ∃ t, exec .cls s = .next t ∧ (∀ x y, t.fb.pixel x y = false) ∧ t.pc = s.pc + 2 ∧ Frame [] [.fb] s t

/-- DXYN inverts exactly the pixels its sprite covers, and VF is 1 exactly when one of them was lit (R191, R193, R195).
Two of its clauses are choices the source does not force: pixels past the edge are not drawn, `DRAW_EDGE = Clip` (R194,
D3, C4; DEDUCED, log entry 6), and bit 7 is leftmost (R192, D20; log entry 13). -/
def Obligations.DrawInvertsTheCoveredPixels : Prop :=
  ∀ (s : State) (x y : Reg) (n : Fin 16), ∃ t, exec (.drw x y n) s = .next t ∧
    (∀ px py, t.fb.pixel px py = true ↔
      (s.fb.pixel px py = true ↔ ¬SpriteCovers .clip s (s.reg x) (s.reg y) n.val px py)) ∧
    ((∃ px py, SpriteCovers .clip s (s.reg x) (s.reg y) n.val px py ∧ s.fb.pixel px py = true) → t.reg VF = 1) ∧
    ((∀ px py, SpriteCovers .clip s (s.reg x) (s.reg y) n.val px py → s.fb.pixel px py = false) → t.reg VF = 0) ∧
    t.pc = s.pc + 2 ∧ Frame [VF] [.fb] s t

/-- What a sprite does under either value of `DRAW_EDGE` (R194), with the origin, bit order, inversion and collision of
R191, R192, R193 and R195.  That DXYN's value is `Clip` is the spec's own decision (D3, C4; DEDUCED, log entry 6), and so
is the bit order (D20; log entry 13). -/
def Obligations.SpritesUnderEitherEdge : Prop :=
  drawEdge = .clip ∧
  ∀ (e : DrawEdge) (s : State) (vx vy : Byte) (n : Nat), n < 16 →
    (∀ px py, (s.drawSprite e vx vy n).fb.pixel px py = true ↔
      (s.fb.pixel px py = true ↔ ¬SpriteCovers e s vx vy n px py)) ∧
    ((s.drawSprite e vx vy n).hit = true ↔
      ∃ px py, SpriteCovers e s vx vy n px py ∧ s.fb.pixel px py = true)

/-- The same sprite drawn twice at one place restores the display, and the second VF is 1 exactly when the first draw
lit a pixel (R191, R195, C5).  The pixels are those under `Clip` (R194, D3, C4; DEDUCED, log entry 6). -/
def Obligations.DrawingTwiceRestoresTheDisplay : Prop :=
  ∀ (s t : State) (x y : Reg) (n : Fin 16), exec (.drw x y n) s = .next t →
    (t.reg x).toNat % 64 = (s.reg x).toNat % 64 → (t.reg y).toNat % 32 = (s.reg y).toNat % 32 →
    ∃ u, exec (.drw x y n) t = .next u ∧ (∀ px py, u.fb.pixel px py = s.fb.pixel px py) ∧
      (u.reg VF = 1 ↔ ∃ px py, SpriteCovers .clip s (s.reg x) (s.reg y) n.val px py ∧ s.fb.pixel px py = false)

/-- The render port fills 64 × 32 colours in row-major order and changes no core state (R196).  That the two host colours
differ is D29, carried by the model's constants (DESIGN CHOICE, log entry 7). -/
def Obligations.RenderIsRowMajor : Prop :=
  Config.onColor ≠ Config.offColor ∧
  ∀ s : State, ∃ buf, serve .render (some s) = .served (some s) (.buffer buf) ∧ buf.length = 2048 ∧
    ∀ (x : Fin 64) (y : Fin 32),
      buf[y.val * 64 + x.val]? = some (if s.fb.pixel x y then Config.onColor else Config.offColor)

/-! ## Keys and timers -/

/-- R210, R211, R212: the key skips read key VX; with VX of 16 or more they raise `KeyIndexOutOfRange`. -/
def Obligations.KeySkipsReadTheirKey : Prop :=
  ∀ (s : State) (x : Reg),
    (∀ k : Fin 16, (s.reg x).toNat = k.val →
      (∃ t, exec (.skp x) s = .next t ∧ t.pc = (if s.key k = true then s.pc + 4 else s.pc + 2) ∧ Frame [] [] s t) ∧
      (∃ t, exec (.sknp x) s = .next t ∧ t.pc = (if s.key k = false then s.pc + 4 else s.pc + 2) ∧
        Frame [] [] s t)) ∧
    (16 ≤ (s.reg x).toNat →
      exec (.skp x) s = .next { s with fault := some .keyIndexOutOfRange } ∧
      exec (.sknp x) s = .next { s with fault := some .keyIndexOutOfRange })

/-- R213, R215, R216: DT is read into VX, VX is written to DT, VX is written to ST. -/
def Obligations.TimersAreReadAndSet : Prop :=
  ∀ (s : State) (x : Reg),
    (∃ t, exec (.ldVxDt x) s = .next t ∧ t.reg x = s.dt ∧ t.pc = s.pc + 2 ∧ Frame [x] [] s t) ∧
    (∃ t, exec (.ldDtVx x) s = .next t ∧ t.dt = s.reg x ∧ t.pc = s.pc + 2 ∧ Frame [] [.dt] s t) ∧
    (∃ t, exec (.ldStVx x) s = .next t ∧ t.st = s.reg x ∧ t.pc = s.pc + 2 ∧ Frame [] [.st] s t)

/-- R214: FX0A puts the lowest pressed key into VX; with no key pressed nothing changes, PC included. -/
def Obligations.KeyWaitTakesTheLowestKey : Prop :=
  ∀ (s : State) (x : Reg),
    (∀ k : Fin 16, s.key k = true → (∀ j, j < k → s.key j = false) →
      ∃ t, exec (.ldVxK x) s = .next t ∧ (t.reg x).toNat = k.val ∧ t.pc = s.pc + 2 ∧ Frame [x] [] s t) ∧
    ((∀ k, s.key k = false) → exec (.ldVxK x) s = .next s)

/-! ## Ports -/

/-- R240: TICK counts both timers down, each stopping at zero, in any state, and changes nothing else. -/
def Obligations.TickCountsBothTimersDown : Prop :=
  ∀ s : State, ∃ t, serve .tick (some s) = .served (some t) .done ∧
    t.dt.toNat = s.dt.toNat - 1 ∧ t.st.toNat = s.st.toNat - 1 ∧ KeepsRegsBut [] s t ∧ KeepsAllBut [.dt, .st] s t

/-- FX15, then any number of TICKs, then FX07 reads `max(0, d - n)`; ST counts down the same way (R281). -/
def Obligations.DelayTimerAfterTicks : Prop :=
  ∀ (s a : State) (x y : Reg) (n : Nat), exec (.ldDtVx x) s = .next a →
    (∃ t, exec (.ldVxDt y) (State.tick^[n] a) = .next t ∧ (t.reg y).toNat = (s.reg x).toNat - n) ∧
    (State.tick^[n] a).st.toNat = s.st.toNat - n

/-- LOAD puts the font at FONT_BASE and the ROM at 0x200, as far as memory goes, and changes nothing else (R272, R273,
R275).  The font's bytes are the standard table the spec takes from general knowledge (D2; PRESUMED, log entry 5), and its
place is the model's constant below 433 (R60, D1; DESIGN CHOICE, log entry 4). -/
def Obligations.LoadPlacesFontAndRom : Prop :=
  ∀ (s : State) (rom : List Byte), s.Inv → ∃ t, serve (.load rom) (some s) = .served (some t) .done ∧
    (∀ a < 4096, t.byteAt a =
      if 0x200 ≤ a ∧ a - 0x200 < min rom.length 3584 then rom.getD (a - 0x200) 0
      else if fontBase ≤ a ∧ a < fontBase + 80 then fontData.getD (a - fontBase) 0
      else s.byteAt a) ∧
    KeepsRegsBut [] s t ∧ KeepsAllBut [.mem] s t

/-- R244, R245: SETKEY sets its key flag and nothing else and, INIT apart, no other port writes a key flag; READ_ST
gives ST and changes nothing. -/
def Obligations.KeyAndSoundPorts : Prop :=
  ∀ s : State,
    (∀ k pressed, ∃ t, serve (.setKey k pressed) (some s) = .served (some t) .done ∧
      (∀ j, t.key j = if j = k then pressed else s.key j) ∧ KeepsRegsBut [] s t ∧ KeepsAllBut [.keys] s t) ∧
    (∀ q t r, serve q (some s) = .served (some t) r → q ≠ .init → (∀ k pressed, q ≠ .setKey k pressed) →
      t.keys = s.keys) ∧
    serve .readSt (some s) = .served (some s) (.sound s.st)
end

