-- ==== Sys2Proof/Laws/WellFormed.lean ====
section
/-! SUPPORT. Every instruction is well formed: its operand types are the widths of its fields. -/

namespace Sys2Proof

/-- No operand of an instruction overflows its field (R71, R72). -/
theorem Instr.wf_all (i : Instr) : i.wf = true := by
  have hn (nn : Byte) : nn.toNat < 256 := nn.isLt
  have ha (nnn : Addr) : nnn.toNat < 4096 := nnn.isLt
  cases i <;>
    simp [Instr.wf, Fields.wf, Fields.xFits, Fields.yFits, Fields.nFits, Fields.nnFits, Fields.nnnFits,
      Instr.fields, hn, ha]

end Sys2Proof
end

