-- ==== Sys2Proof/Laws/Decode.lean ====
section
/-! SUPPORT. The fields of encoded words, and the bytes of a word. -/

namespace Sys2Proof

theorem field_eq (w : Word) (lo len : Nat) : field w lo len = w.toNat / 2 ^ lo % 2 ^ len := by
  simp [field, Nat.shiftRight_eq_div_pow]

theorem field_lt (w : Word) (lo len : Nat) : field w lo len < 2 ^ len := Nat.mod_lt _ (Nat.two_pow_pos _)

theorem fieldF_wordNNN {f : Nat} (hf : f < 16) (nnn : Addr) : fieldF (wordNNN f nnn) = f := by
  have := nnn.isLt; simp only [fieldF, field_eq, wordNNN, BitVec.toNat_ofNat]; omega

theorem fieldNNN_wordNNN {f : Nat} (nnn : Addr) : fieldNNN (wordNNN f nnn) = nnn := by
  have := nnn.isLt
  apply BitVec.eq_of_toNat_eq
  simp only [fieldNNN, field_eq, wordNNN, BitVec.toNat_ofNat]; omega

theorem fieldF_wordXNN {f nn : Nat} (hf : f < 16) (hn : nn < 256) (x : Reg) : fieldF (wordXNN f x nn) = f := by
  have := x.isLt; simp only [fieldF, field_eq, wordXNN, BitVec.toNat_ofNat]; omega

theorem fieldX_wordXNN {f nn : Nat} (hn : nn < 256) (x : Reg) : fieldX (wordXNN f x nn) = x := by
  have := x.isLt
  apply Fin.ext
  simp only [fieldX, field_eq, wordXNN, BitVec.toNat_ofNat, Fin.ofNat]; omega

theorem field08_wordXNN {f nn : Nat} (hn : nn < 256) (x : Reg) : field (wordXNN f x nn) 0 8 = nn := by
  have := x.isLt; simp only [field_eq, wordXNN, BitVec.toNat_ofNat]; omega

theorem fieldNN_wordXNN {f : Nat} (x : Reg) (nn : Byte) : fieldNN (wordXNN f x nn.toNat) = nn := by
  rw [fieldNN, field08_wordXNN nn.isLt]; simp

theorem fieldF_wordXYN {f n : Nat} (hf : f < 16) (hn : n < 16) (x y : Reg) : fieldF (wordXYN f x y n) = f := by
  have := x.isLt; have := y.isLt; simp only [fieldF, field_eq, wordXYN, BitVec.toNat_ofNat]; omega

theorem fieldX_wordXYN {f n : Nat} (hn : n < 16) (x y : Reg) : fieldX (wordXYN f x y n) = x := by
  have := x.isLt; have := y.isLt
  apply Fin.ext
  simp only [fieldX, field_eq, wordXYN, BitVec.toNat_ofNat, Fin.ofNat]; omega

theorem fieldY_wordXYN {f n : Nat} (hn : n < 16) (x y : Reg) : fieldY (wordXYN f x y n) = y := by
  have := x.isLt; have := y.isLt
  apply Fin.ext
  simp only [fieldY, field_eq, wordXYN, BitVec.toNat_ofNat, Fin.ofNat]; omega

theorem field04_wordXYN {f n : Nat} (hn : n < 16) (x y : Reg) : field (wordXYN f x y n) 0 4 = n := by
  have := x.isLt; have := y.isLt; simp only [field_eq, wordXYN, BitVec.toNat_ofNat]; omega

theorem fieldN_wordXYN {f : Nat} (x y : Reg) (n : Fin 16) : fieldN (wordXYN f x y n.val) = n := by
  rw [fieldN, field04_wordXYN n.isLt]; apply Fin.ext; simp [Fin.ofNat]

/-- The two bytes of a word, put together again, are the word (R54). -/
theorem wordOfBytes_bytes (w : Word) : wordOfBytes (highByte w) (lowByte w) = w := by
  have := w.isLt
  apply BitVec.eq_of_toNat_eq
  have h1 : (lowByte w).toNat < 2 ^ 8 := (lowByte w).isLt
  rw [wordOfBytes, ← Nat.shiftLeft_add_eq_or_of_lt h1, Nat.shiftLeft_eq]
  simp only [highByte, lowByte, field_eq, BitVec.toNat_ofNat]; omega

/-- The two bytes of a word made of two bytes (R54). -/
@[simp] theorem highByte_wordOfBytes (hi lo : Byte) : highByte (wordOfBytes hi lo) = hi := by
  have h := hi.isLt
  have h1 : lo.toNat < 2 ^ 8 := lo.isLt
  apply BitVec.eq_of_toNat_eq
  rw [highByte, field_eq, wordOfBytes, ← Nat.shiftLeft_add_eq_or_of_lt h1, Nat.shiftLeft_eq]
  simp only [BitVec.toNat_ofNat]; omega

@[simp] theorem lowByte_wordOfBytes (hi lo : Byte) : lowByte (wordOfBytes hi lo) = lo := by
  have h := hi.isLt
  have h1 : lo.toNat < 2 ^ 8 := lo.isLt
  apply BitVec.eq_of_toNat_eq
  rw [lowByte, field_eq, wordOfBytes, ← Nat.shiftLeft_add_eq_or_of_lt h1, Nat.shiftLeft_eq]
  simp only [BitVec.toNat_ofNat]; omega

/-! ## The masks of R74 keep whole fields -/

theorem toNat_and_F000 (w : Word) : (w &&& (0xF000 : Word)).toNat = field w 12 4 * 0x1000 := by
  have h : w &&& (0xF000 : Word) = (w >>> 12) <<< 12 := by
    apply BitVec.eq_of_getLsbD_eq
    intro i hi
    interval_cases i <;> simp
  have := w.isLt
  rw [h, field_eq]
  simp only [BitVec.toNat_shiftLeft, BitVec.toNat_ushiftRight, Nat.shiftLeft_eq, Nat.shiftRight_eq_div_pow]
  omega

theorem toNat_and_low (w : Word) (k : Nat) (hk : k ≤ 16) :
    (w &&& BitVec.ofNat 16 (2 ^ k - 1)).toNat = field w 0 k := by
  have h : 2 ^ k - 1 < 2 ^ 16 :=
    Nat.lt_of_lt_of_le (Nat.sub_lt (Nat.two_pow_pos k) (by decide)) (Nat.pow_le_pow_right (by decide) hk)
  rw [BitVec.toNat_and, BitVec.toNat_ofNat, Nat.mod_eq_of_lt h, Nat.and_two_pow_sub_one_eq_mod]
  simp [field]

theorem and_or_mask (w a b : Word) (h : a &&& b = 0) : w &&& (a ||| b) = (w &&& a) + (w &&& b) := by
  rw [BitVec.add_eq_or_of_and_eq_zero, BitVec.and_or_distrib_left]
  rw [show w &&& a &&& (w &&& b) = w &&& (a &&& b) by
    rw [BitVec.and_assoc, BitVec.and_comm a, BitVec.and_assoc, ← BitVec.and_assoc w, BitVec.and_self, BitVec.and_comm b], h]
  simp

theorem toNat_and_F00F (w : Word) : (w &&& (0xF00F : Word)).toNat = field w 12 4 * 0x1000 + field w 0 4 := by
  have h := and_or_mask w 0xF000 0x000F (by decide)
  have h1 := toNat_and_F000 w
  have h2 : (w &&& (0x000F : Word)).toNat = field w 0 4 := toNat_and_low w 4 (by decide)
  have := field_lt w 12 4
  have := field_lt w 0 4
  rw [show (0xF00F : Word) = 0xF000 ||| 0x000F by decide, h, BitVec.toNat_add, h1, h2]
  omega

theorem toNat_and_F0FF (w : Word) : (w &&& (0xF0FF : Word)).toNat = field w 12 4 * 0x1000 + field w 0 8 := by
  have h := and_or_mask w 0xF000 0x00FF (by decide)
  have h1 := toNat_and_F000 w
  have h2 : (w &&& (0x00FF : Word)).toNat = field w 0 8 := toNat_and_low w 8 (by decide)
  have := field_lt w 12 4
  have := field_lt w 0 8
  rw [show (0xF0FF : Word) = 0xF000 ||| 0x00FF by decide, h, BitVec.toNat_add, h1, h2]
  omega

/-- A row of mask 0xF000 accepts the words of its family. -/
theorem accepts_F000 (m : String) (w b : Word) :
    OpcodeRow.accepts ⟨m, 0xF000, b⟩ w = true ↔ field w 12 4 * 0x1000 = b.toNat := by
  simp only [OpcodeRow.accepts, beq_iff_eq, ← toNat_and_F000, BitVec.toNat_inj]

/-- A row of mask 0xF00F accepts the words of its family and N. -/
theorem accepts_F00F (m : String) (w b : Word) :
    OpcodeRow.accepts ⟨m, 0xF00F, b⟩ w = true ↔ field w 12 4 * 0x1000 + field w 0 4 = b.toNat := by
  simp only [OpcodeRow.accepts, beq_iff_eq, ← toNat_and_F00F, BitVec.toNat_inj]

/-- A row of mask 0xF0FF accepts the words of its family and NN. -/
theorem accepts_F0FF (m : String) (w b : Word) :
    OpcodeRow.accepts ⟨m, 0xF0FF, b⟩ w = true ↔ field w 12 4 * 0x1000 + field w 0 8 = b.toNat := by
  simp only [OpcodeRow.accepts, beq_iff_eq, ← toNat_and_F0FF, BitVec.toNat_inj]

end Sys2Proof
end

