-- ==== Sys2Proof/Laws/State.lean ====
section
/-! SUPPORT. One lemma per field per update of the state, and per field of State.reset. -/

namespace Sys2Proof.Machine

/-! ### setByte -/

@[simp] theorem State.setByte_v (s : State) (a : Nat) (b : Byte) : (s.setByte a b).v = s.v := rfl
@[simp] theorem State.setByte_i (s : State) (a : Nat) (b : Byte) : (s.setByte a b).i = s.i := rfl
@[simp] theorem State.setByte_pc (s : State) (a : Nat) (b : Byte) : (s.setByte a b).pc = s.pc := rfl
@[simp] theorem State.setByte_stack (s : State) (a : Nat) (b : Byte) : (s.setByte a b).stack = s.stack := rfl
@[simp] theorem State.setByte_dt (s : State) (a : Nat) (b : Byte) : (s.setByte a b).dt = s.dt := rfl
@[simp] theorem State.setByte_st (s : State) (a : Nat) (b : Byte) : (s.setByte a b).st = s.st := rfl
@[simp] theorem State.setByte_mem (s : State) (a : Nat) (b : Byte) : (s.setByte a b).mem = s.mem.write a b := rfl
@[simp] theorem State.setByte_fb (s : State) (a : Nat) (b : Byte) : (s.setByte a b).fb = s.fb := rfl
@[simp] theorem State.setByte_keys (s : State) (a : Nat) (b : Byte) : (s.setByte a b).keys = s.keys := rfl
@[simp] theorem State.setByte_fault (s : State) (a : Nat) (b : Byte) : (s.setByte a b).fault = s.fault := rfl
@[simp] theorem State.setByte_randomIn (s : State) (a : Nat) (b : Byte) : (s.setByte a b).randomIn = s.randomIn := rfl
@[simp] theorem State.setByte_draws (s : State) (a : Nat) (b : Byte) : (s.setByte a b).draws = s.draws := rfl

/-! ### setReg -/

@[simp] theorem State.setReg_v (s : State) (r : Reg) (b : Byte) : (s.setReg r b).v = s.v.set r.val b r.isLt := rfl
@[simp] theorem State.setReg_i (s : State) (r : Reg) (b : Byte) : (s.setReg r b).i = s.i := rfl
@[simp] theorem State.setReg_pc (s : State) (r : Reg) (b : Byte) : (s.setReg r b).pc = s.pc := rfl
@[simp] theorem State.setReg_stack (s : State) (r : Reg) (b : Byte) : (s.setReg r b).stack = s.stack := rfl
@[simp] theorem State.setReg_dt (s : State) (r : Reg) (b : Byte) : (s.setReg r b).dt = s.dt := rfl
@[simp] theorem State.setReg_st (s : State) (r : Reg) (b : Byte) : (s.setReg r b).st = s.st := rfl
@[simp] theorem State.setReg_mem (s : State) (r : Reg) (b : Byte) : (s.setReg r b).mem = s.mem := rfl
@[simp] theorem State.setReg_fb (s : State) (r : Reg) (b : Byte) : (s.setReg r b).fb = s.fb := rfl
@[simp] theorem State.setReg_keys (s : State) (r : Reg) (b : Byte) : (s.setReg r b).keys = s.keys := rfl
@[simp] theorem State.setReg_fault (s : State) (r : Reg) (b : Byte) : (s.setReg r b).fault = s.fault := rfl
@[simp] theorem State.setReg_randomIn (s : State) (r : Reg) (b : Byte) : (s.setReg r b).randomIn = s.randomIn := rfl
@[simp] theorem State.setReg_draws (s : State) (r : Reg) (b : Byte) : (s.setReg r b).draws = s.draws := rfl

/-! ### setRegThenFlag -/

@[simp] theorem State.setRegThenFlag_v (s : State) (r : Reg) (b f : Byte) : (s.setRegThenFlag r b f).v = (s.v.set r.val b r.isLt).set VF.val f VF.isLt := rfl
@[simp] theorem State.setRegThenFlag_i (s : State) (r : Reg) (b f : Byte) : (s.setRegThenFlag r b f).i = s.i := rfl
@[simp] theorem State.setRegThenFlag_pc (s : State) (r : Reg) (b f : Byte) : (s.setRegThenFlag r b f).pc = s.pc := rfl
@[simp] theorem State.setRegThenFlag_stack (s : State) (r : Reg) (b f : Byte) : (s.setRegThenFlag r b f).stack = s.stack := rfl
@[simp] theorem State.setRegThenFlag_dt (s : State) (r : Reg) (b f : Byte) : (s.setRegThenFlag r b f).dt = s.dt := rfl
@[simp] theorem State.setRegThenFlag_st (s : State) (r : Reg) (b f : Byte) : (s.setRegThenFlag r b f).st = s.st := rfl
@[simp] theorem State.setRegThenFlag_mem (s : State) (r : Reg) (b f : Byte) : (s.setRegThenFlag r b f).mem = s.mem := rfl
@[simp] theorem State.setRegThenFlag_fb (s : State) (r : Reg) (b f : Byte) : (s.setRegThenFlag r b f).fb = s.fb := rfl
@[simp] theorem State.setRegThenFlag_keys (s : State) (r : Reg) (b f : Byte) : (s.setRegThenFlag r b f).keys = s.keys := rfl
@[simp] theorem State.setRegThenFlag_fault (s : State) (r : Reg) (b f : Byte) : (s.setRegThenFlag r b f).fault = s.fault := rfl
@[simp] theorem State.setRegThenFlag_randomIn (s : State) (r : Reg) (b f : Byte) : (s.setRegThenFlag r b f).randomIn = s.randomIn := rfl
@[simp] theorem State.setRegThenFlag_draws (s : State) (r : Reg) (b f : Byte) : (s.setRegThenFlag r b f).draws = s.draws := rfl

/-! ### advance -/

@[simp] theorem State.advance_v (s : State) : (s.advance).v = s.v := rfl
@[simp] theorem State.advance_i (s : State) : (s.advance).i = s.i := rfl
@[simp] theorem State.advance_pc (s : State) : (s.advance).pc = s.pc + 2 := rfl
@[simp] theorem State.advance_stack (s : State) : (s.advance).stack = s.stack := rfl
@[simp] theorem State.advance_dt (s : State) : (s.advance).dt = s.dt := rfl
@[simp] theorem State.advance_st (s : State) : (s.advance).st = s.st := rfl
@[simp] theorem State.advance_mem (s : State) : (s.advance).mem = s.mem := rfl
@[simp] theorem State.advance_fb (s : State) : (s.advance).fb = s.fb := rfl
@[simp] theorem State.advance_keys (s : State) : (s.advance).keys = s.keys := rfl
@[simp] theorem State.advance_fault (s : State) : (s.advance).fault = s.fault := rfl
@[simp] theorem State.advance_randomIn (s : State) : (s.advance).randomIn = s.randomIn := rfl
@[simp] theorem State.advance_draws (s : State) : (s.advance).draws = s.draws := rfl

/-! ### skipIf -/

@[simp] theorem State.skipIf_v (s : State) (b : Bool) : (s.skipIf b).v = s.v := rfl
@[simp] theorem State.skipIf_i (s : State) (b : Bool) : (s.skipIf b).i = s.i := rfl
@[simp] theorem State.skipIf_pc (s : State) (b : Bool) : (s.skipIf b).pc = if b then s.pc + 4 else s.pc + 2 := rfl
@[simp] theorem State.skipIf_stack (s : State) (b : Bool) : (s.skipIf b).stack = s.stack := rfl
@[simp] theorem State.skipIf_dt (s : State) (b : Bool) : (s.skipIf b).dt = s.dt := rfl
@[simp] theorem State.skipIf_st (s : State) (b : Bool) : (s.skipIf b).st = s.st := rfl
@[simp] theorem State.skipIf_mem (s : State) (b : Bool) : (s.skipIf b).mem = s.mem := rfl
@[simp] theorem State.skipIf_fb (s : State) (b : Bool) : (s.skipIf b).fb = s.fb := rfl
@[simp] theorem State.skipIf_keys (s : State) (b : Bool) : (s.skipIf b).keys = s.keys := rfl
@[simp] theorem State.skipIf_fault (s : State) (b : Bool) : (s.skipIf b).fault = s.fault := rfl
@[simp] theorem State.skipIf_randomIn (s : State) (b : Bool) : (s.skipIf b).randomIn = s.randomIn := rfl
@[simp] theorem State.skipIf_draws (s : State) (b : Bool) : (s.skipIf b).draws = s.draws := rfl

/-! ### jumpTo -/

@[simp] theorem State.jumpTo_v (s : State) (a : Word) : (s.jumpTo a).v = s.v := rfl
@[simp] theorem State.jumpTo_i (s : State) (a : Word) : (s.jumpTo a).i = s.i := rfl
@[simp] theorem State.jumpTo_pc (s : State) (a : Word) : (s.jumpTo a).pc = a := rfl
@[simp] theorem State.jumpTo_stack (s : State) (a : Word) : (s.jumpTo a).stack = s.stack := rfl
@[simp] theorem State.jumpTo_dt (s : State) (a : Word) : (s.jumpTo a).dt = s.dt := rfl
@[simp] theorem State.jumpTo_st (s : State) (a : Word) : (s.jumpTo a).st = s.st := rfl
@[simp] theorem State.jumpTo_mem (s : State) (a : Word) : (s.jumpTo a).mem = s.mem := rfl
@[simp] theorem State.jumpTo_fb (s : State) (a : Word) : (s.jumpTo a).fb = s.fb := rfl
@[simp] theorem State.jumpTo_keys (s : State) (a : Word) : (s.jumpTo a).keys = s.keys := rfl
@[simp] theorem State.jumpTo_fault (s : State) (a : Word) : (s.jumpTo a).fault = s.fault := rfl
@[simp] theorem State.jumpTo_randomIn (s : State) (a : Word) : (s.jumpTo a).randomIn = s.randomIn := rfl
@[simp] theorem State.jumpTo_draws (s : State) (a : Word) : (s.jumpTo a).draws = s.draws := rfl

/-! ### push -/

@[simp] theorem State.push_v (s : State) (a : Word) : (s.push a).v = s.v := rfl
@[simp] theorem State.push_i (s : State) (a : Word) : (s.push a).i = s.i := rfl
@[simp] theorem State.push_pc (s : State) (a : Word) : (s.push a).pc = s.pc := rfl
@[simp] theorem State.push_stack (s : State) (a : Word) : (s.push a).stack = a :: s.stack := rfl
@[simp] theorem State.push_dt (s : State) (a : Word) : (s.push a).dt = s.dt := rfl
@[simp] theorem State.push_st (s : State) (a : Word) : (s.push a).st = s.st := rfl
@[simp] theorem State.push_mem (s : State) (a : Word) : (s.push a).mem = s.mem := rfl
@[simp] theorem State.push_fb (s : State) (a : Word) : (s.push a).fb = s.fb := rfl
@[simp] theorem State.push_keys (s : State) (a : Word) : (s.push a).keys = s.keys := rfl
@[simp] theorem State.push_fault (s : State) (a : Word) : (s.push a).fault = s.fault := rfl
@[simp] theorem State.push_randomIn (s : State) (a : Word) : (s.push a).randomIn = s.randomIn := rfl
@[simp] theorem State.push_draws (s : State) (a : Word) : (s.push a).draws = s.draws := rfl

/-! ### setI -/

@[simp] theorem State.setI_v (s : State) (a : Word) : (s.setI a).v = s.v := rfl
@[simp] theorem State.setI_i (s : State) (a : Word) : (s.setI a).i = a := rfl
@[simp] theorem State.setI_pc (s : State) (a : Word) : (s.setI a).pc = s.pc := rfl
@[simp] theorem State.setI_stack (s : State) (a : Word) : (s.setI a).stack = s.stack := rfl
@[simp] theorem State.setI_dt (s : State) (a : Word) : (s.setI a).dt = s.dt := rfl
@[simp] theorem State.setI_st (s : State) (a : Word) : (s.setI a).st = s.st := rfl
@[simp] theorem State.setI_mem (s : State) (a : Word) : (s.setI a).mem = s.mem := rfl
@[simp] theorem State.setI_fb (s : State) (a : Word) : (s.setI a).fb = s.fb := rfl
@[simp] theorem State.setI_keys (s : State) (a : Word) : (s.setI a).keys = s.keys := rfl
@[simp] theorem State.setI_fault (s : State) (a : Word) : (s.setI a).fault = s.fault := rfl
@[simp] theorem State.setI_randomIn (s : State) (a : Word) : (s.setI a).randomIn = s.randomIn := rfl
@[simp] theorem State.setI_draws (s : State) (a : Word) : (s.setI a).draws = s.draws := rfl

/-! ### setDt -/

@[simp] theorem State.setDt_v (s : State) (b : Byte) : (s.setDt b).v = s.v := rfl
@[simp] theorem State.setDt_i (s : State) (b : Byte) : (s.setDt b).i = s.i := rfl
@[simp] theorem State.setDt_pc (s : State) (b : Byte) : (s.setDt b).pc = s.pc := rfl
@[simp] theorem State.setDt_stack (s : State) (b : Byte) : (s.setDt b).stack = s.stack := rfl
@[simp] theorem State.setDt_dt (s : State) (b : Byte) : (s.setDt b).dt = b := rfl
@[simp] theorem State.setDt_st (s : State) (b : Byte) : (s.setDt b).st = s.st := rfl
@[simp] theorem State.setDt_mem (s : State) (b : Byte) : (s.setDt b).mem = s.mem := rfl
@[simp] theorem State.setDt_fb (s : State) (b : Byte) : (s.setDt b).fb = s.fb := rfl
@[simp] theorem State.setDt_keys (s : State) (b : Byte) : (s.setDt b).keys = s.keys := rfl
@[simp] theorem State.setDt_fault (s : State) (b : Byte) : (s.setDt b).fault = s.fault := rfl
@[simp] theorem State.setDt_randomIn (s : State) (b : Byte) : (s.setDt b).randomIn = s.randomIn := rfl
@[simp] theorem State.setDt_draws (s : State) (b : Byte) : (s.setDt b).draws = s.draws := rfl

/-! ### setSt -/

@[simp] theorem State.setSt_v (s : State) (b : Byte) : (s.setSt b).v = s.v := rfl
@[simp] theorem State.setSt_i (s : State) (b : Byte) : (s.setSt b).i = s.i := rfl
@[simp] theorem State.setSt_pc (s : State) (b : Byte) : (s.setSt b).pc = s.pc := rfl
@[simp] theorem State.setSt_stack (s : State) (b : Byte) : (s.setSt b).stack = s.stack := rfl
@[simp] theorem State.setSt_dt (s : State) (b : Byte) : (s.setSt b).dt = s.dt := rfl
@[simp] theorem State.setSt_st (s : State) (b : Byte) : (s.setSt b).st = b := rfl
@[simp] theorem State.setSt_mem (s : State) (b : Byte) : (s.setSt b).mem = s.mem := rfl
@[simp] theorem State.setSt_fb (s : State) (b : Byte) : (s.setSt b).fb = s.fb := rfl
@[simp] theorem State.setSt_keys (s : State) (b : Byte) : (s.setSt b).keys = s.keys := rfl
@[simp] theorem State.setSt_fault (s : State) (b : Byte) : (s.setSt b).fault = s.fault := rfl
@[simp] theorem State.setSt_randomIn (s : State) (b : Byte) : (s.setSt b).randomIn = s.randomIn := rfl
@[simp] theorem State.setSt_draws (s : State) (b : Byte) : (s.setSt b).draws = s.draws := rfl

/-! ### dropTop -/

@[simp] theorem State.dropTop_v (s : State) : (s.dropTop).v = s.v := rfl
@[simp] theorem State.dropTop_i (s : State) : (s.dropTop).i = s.i := rfl
@[simp] theorem State.dropTop_pc (s : State) : (s.dropTop).pc = s.pc := rfl
@[simp] theorem State.dropTop_stack (s : State) : (s.dropTop).stack = s.stack.tail := rfl
@[simp] theorem State.dropTop_dt (s : State) : (s.dropTop).dt = s.dt := rfl
@[simp] theorem State.dropTop_st (s : State) : (s.dropTop).st = s.st := rfl
@[simp] theorem State.dropTop_mem (s : State) : (s.dropTop).mem = s.mem := rfl
@[simp] theorem State.dropTop_fb (s : State) : (s.dropTop).fb = s.fb := rfl
@[simp] theorem State.dropTop_keys (s : State) : (s.dropTop).keys = s.keys := rfl
@[simp] theorem State.dropTop_fault (s : State) : (s.dropTop).fault = s.fault := rfl
@[simp] theorem State.dropTop_randomIn (s : State) : (s.dropTop).randomIn = s.randomIn := rfl
@[simp] theorem State.dropTop_draws (s : State) : (s.dropTop).draws = s.draws := rfl

/-! ### setFb -/

@[simp] theorem State.setFb_v (s : State) (fb : Framebuffer) : (s.setFb fb).v = s.v := rfl
@[simp] theorem State.setFb_i (s : State) (fb : Framebuffer) : (s.setFb fb).i = s.i := rfl
@[simp] theorem State.setFb_pc (s : State) (fb : Framebuffer) : (s.setFb fb).pc = s.pc := rfl
@[simp] theorem State.setFb_stack (s : State) (fb : Framebuffer) : (s.setFb fb).stack = s.stack := rfl
@[simp] theorem State.setFb_dt (s : State) (fb : Framebuffer) : (s.setFb fb).dt = s.dt := rfl
@[simp] theorem State.setFb_st (s : State) (fb : Framebuffer) : (s.setFb fb).st = s.st := rfl
@[simp] theorem State.setFb_mem (s : State) (fb : Framebuffer) : (s.setFb fb).mem = s.mem := rfl
@[simp] theorem State.setFb_fb (s : State) (fb : Framebuffer) : (s.setFb fb).fb = fb := rfl
@[simp] theorem State.setFb_keys (s : State) (fb : Framebuffer) : (s.setFb fb).keys = s.keys := rfl
@[simp] theorem State.setFb_fault (s : State) (fb : Framebuffer) : (s.setFb fb).fault = s.fault := rfl
@[simp] theorem State.setFb_randomIn (s : State) (fb : Framebuffer) : (s.setFb fb).randomIn = s.randomIn := rfl
@[simp] theorem State.setFb_draws (s : State) (fb : Framebuffer) : (s.setFb fb).draws = s.draws := rfl

/-! ### tick -/

@[simp] theorem State.tick_v (s : State) : (s.tick).v = s.v := rfl
@[simp] theorem State.tick_i (s : State) : (s.tick).i = s.i := rfl
@[simp] theorem State.tick_pc (s : State) : (s.tick).pc = s.pc := rfl
@[simp] theorem State.tick_stack (s : State) : (s.tick).stack = s.stack := rfl
@[simp] theorem State.tick_dt (s : State) : (s.tick).dt = countDown s.dt := rfl
@[simp] theorem State.tick_st (s : State) : (s.tick).st = countDown s.st := rfl
@[simp] theorem State.tick_mem (s : State) : (s.tick).mem = s.mem := rfl
@[simp] theorem State.tick_fb (s : State) : (s.tick).fb = s.fb := rfl
@[simp] theorem State.tick_keys (s : State) : (s.tick).keys = s.keys := rfl
@[simp] theorem State.tick_fault (s : State) : (s.tick).fault = s.fault := rfl
@[simp] theorem State.tick_randomIn (s : State) : (s.tick).randomIn = s.randomIn := rfl
@[simp] theorem State.tick_draws (s : State) : (s.tick).draws = s.draws := rfl

/-! ### setKey -/

@[simp] theorem State.setKey_v (k : Fin 16) (b : Bool) (s : State) : (s.setKey k b).v = s.v := rfl
@[simp] theorem State.setKey_i (k : Fin 16) (b : Bool) (s : State) : (s.setKey k b).i = s.i := rfl
@[simp] theorem State.setKey_pc (k : Fin 16) (b : Bool) (s : State) : (s.setKey k b).pc = s.pc := rfl
@[simp] theorem State.setKey_stack (k : Fin 16) (b : Bool) (s : State) : (s.setKey k b).stack = s.stack := rfl
@[simp] theorem State.setKey_dt (k : Fin 16) (b : Bool) (s : State) : (s.setKey k b).dt = s.dt := rfl
@[simp] theorem State.setKey_st (k : Fin 16) (b : Bool) (s : State) : (s.setKey k b).st = s.st := rfl
@[simp] theorem State.setKey_mem (k : Fin 16) (b : Bool) (s : State) : (s.setKey k b).mem = s.mem := rfl
@[simp] theorem State.setKey_fb (k : Fin 16) (b : Bool) (s : State) : (s.setKey k b).fb = s.fb := rfl
@[simp] theorem State.setKey_keys (k : Fin 16) (b : Bool) (s : State) : (s.setKey k b).keys = s.keys.set k.val b k.isLt := rfl
@[simp] theorem State.setKey_fault (k : Fin 16) (b : Bool) (s : State) : (s.setKey k b).fault = s.fault := rfl
@[simp] theorem State.setKey_randomIn (k : Fin 16) (b : Bool) (s : State) : (s.setKey k b).randomIn = s.randomIn := rfl
@[simp] theorem State.setKey_draws (k : Fin 16) (b : Bool) (s : State) : (s.setKey k b).draws = s.draws := rfl

/-! ### placeWord -/

@[simp] theorem State.placeWord_v (s : State) (w : Word) : (s.placeWord w).v = s.v := rfl
@[simp] theorem State.placeWord_i (s : State) (w : Word) : (s.placeWord w).i = s.i := rfl
@[simp] theorem State.placeWord_pc (s : State) (w : Word) : (s.placeWord w).pc = s.pc := rfl
@[simp] theorem State.placeWord_stack (s : State) (w : Word) : (s.placeWord w).stack = s.stack := rfl
@[simp] theorem State.placeWord_dt (s : State) (w : Word) : (s.placeWord w).dt = s.dt := rfl
@[simp] theorem State.placeWord_st (s : State) (w : Word) : (s.placeWord w).st = s.st := rfl
@[simp] theorem State.placeWord_mem (s : State) (w : Word) : (s.placeWord w).mem = (s.mem.write s.pc.toNat (highByte w)).write (s.pc.toNat + 1) (lowByte w) := rfl
@[simp] theorem State.placeWord_fb (s : State) (w : Word) : (s.placeWord w).fb = s.fb := rfl
@[simp] theorem State.placeWord_keys (s : State) (w : Word) : (s.placeWord w).keys = s.keys := rfl
@[simp] theorem State.placeWord_fault (s : State) (w : Word) : (s.placeWord w).fault = s.fault := rfl
@[simp] theorem State.placeWord_randomIn (s : State) (w : Word) : (s.placeWord w).randomIn = s.randomIn := rfl
@[simp] theorem State.placeWord_draws (s : State) (w : Word) : (s.placeWord w).draws = s.draws := rfl

/-! ### afterDraw -/

@[simp] theorem State.afterDraw_v (s : State) (c : Canvas) : (s.afterDraw c).v = s.v.set VF.val (flagByte c.hit) VF.isLt := rfl
@[simp] theorem State.afterDraw_i (s : State) (c : Canvas) : (s.afterDraw c).i = s.i := rfl
@[simp] theorem State.afterDraw_pc (s : State) (c : Canvas) : (s.afterDraw c).pc = s.pc := rfl
@[simp] theorem State.afterDraw_stack (s : State) (c : Canvas) : (s.afterDraw c).stack = s.stack := rfl
@[simp] theorem State.afterDraw_dt (s : State) (c : Canvas) : (s.afterDraw c).dt = s.dt := rfl
@[simp] theorem State.afterDraw_st (s : State) (c : Canvas) : (s.afterDraw c).st = s.st := rfl
@[simp] theorem State.afterDraw_mem (s : State) (c : Canvas) : (s.afterDraw c).mem = s.mem := rfl
@[simp] theorem State.afterDraw_fb (s : State) (c : Canvas) : (s.afterDraw c).fb = c.fb := rfl
@[simp] theorem State.afterDraw_keys (s : State) (c : Canvas) : (s.afterDraw c).keys = s.keys := rfl
@[simp] theorem State.afterDraw_fault (s : State) (c : Canvas) : (s.afterDraw c).fault = s.fault := rfl
@[simp] theorem State.afterDraw_randomIn (s : State) (c : Canvas) : (s.afterDraw c).randomIn = s.randomIn := rfl
@[simp] theorem State.afterDraw_draws (s : State) (c : Canvas) : (s.afterDraw c).draws = s.draws := rfl

/-! ### consumeRandom -/

@[simp] theorem State.consumeRandom_v (s : State) : s.consumeRandom.v = s.v := by
  unfold State.consumeRandom; split <;> rfl
@[simp] theorem State.consumeRandom_i (s : State) : s.consumeRandom.i = s.i := by
  unfold State.consumeRandom; split <;> rfl
@[simp] theorem State.consumeRandom_pc (s : State) : s.consumeRandom.pc = s.pc := by
  unfold State.consumeRandom; split <;> rfl
@[simp] theorem State.consumeRandom_stack (s : State) : s.consumeRandom.stack = s.stack := by
  unfold State.consumeRandom; split <;> rfl
@[simp] theorem State.consumeRandom_dt (s : State) : s.consumeRandom.dt = s.dt := by
  unfold State.consumeRandom; split <;> rfl
@[simp] theorem State.consumeRandom_st (s : State) : s.consumeRandom.st = s.st := by
  unfold State.consumeRandom; split <;> rfl
@[simp] theorem State.consumeRandom_mem (s : State) : s.consumeRandom.mem = s.mem := by
  unfold State.consumeRandom; split <;> rfl
@[simp] theorem State.consumeRandom_fb (s : State) : s.consumeRandom.fb = s.fb := by
  unfold State.consumeRandom; split <;> rfl
@[simp] theorem State.consumeRandom_keys (s : State) : s.consumeRandom.keys = s.keys := by
  unfold State.consumeRandom; split <;> rfl
@[simp] theorem State.consumeRandom_fault (s : State) : s.consumeRandom.fault = s.fault := by
  unfold State.consumeRandom; split <;> rfl

/-! ### setBytes -/

@[simp] theorem State.setBytes_v (a : Nat) (bs : List Byte) (s : State) :
    (State.setBytes a bs s).v = s.v := by
  induction bs generalizing a s with
  | nil => rfl
  | cons b bs ih => simp [State.setBytes, ih]
@[simp] theorem State.setBytes_i (a : Nat) (bs : List Byte) (s : State) :
    (State.setBytes a bs s).i = s.i := by
  induction bs generalizing a s with
  | nil => rfl
  | cons b bs ih => simp [State.setBytes, ih]
@[simp] theorem State.setBytes_pc (a : Nat) (bs : List Byte) (s : State) :
    (State.setBytes a bs s).pc = s.pc := by
  induction bs generalizing a s with
  | nil => rfl
  | cons b bs ih => simp [State.setBytes, ih]
@[simp] theorem State.setBytes_stack (a : Nat) (bs : List Byte) (s : State) :
    (State.setBytes a bs s).stack = s.stack := by
  induction bs generalizing a s with
  | nil => rfl
  | cons b bs ih => simp [State.setBytes, ih]
@[simp] theorem State.setBytes_dt (a : Nat) (bs : List Byte) (s : State) :
    (State.setBytes a bs s).dt = s.dt := by
  induction bs generalizing a s with
  | nil => rfl
  | cons b bs ih => simp [State.setBytes, ih]
@[simp] theorem State.setBytes_st (a : Nat) (bs : List Byte) (s : State) :
    (State.setBytes a bs s).st = s.st := by
  induction bs generalizing a s with
  | nil => rfl
  | cons b bs ih => simp [State.setBytes, ih]
@[simp] theorem State.setBytes_fb (a : Nat) (bs : List Byte) (s : State) :
    (State.setBytes a bs s).fb = s.fb := by
  induction bs generalizing a s with
  | nil => rfl
  | cons b bs ih => simp [State.setBytes, ih]
@[simp] theorem State.setBytes_keys (a : Nat) (bs : List Byte) (s : State) :
    (State.setBytes a bs s).keys = s.keys := by
  induction bs generalizing a s with
  | nil => rfl
  | cons b bs ih => simp [State.setBytes, ih]
@[simp] theorem State.setBytes_fault (a : Nat) (bs : List Byte) (s : State) :
    (State.setBytes a bs s).fault = s.fault := by
  induction bs generalizing a s with
  | nil => rfl
  | cons b bs ih => simp [State.setBytes, ih]
@[simp] theorem State.setBytes_randomIn (a : Nat) (bs : List Byte) (s : State) :
    (State.setBytes a bs s).randomIn = s.randomIn := by
  induction bs generalizing a s with
  | nil => rfl
  | cons b bs ih => simp [State.setBytes, ih]
@[simp] theorem State.setBytes_draws (a : Nat) (bs : List Byte) (s : State) :
    (State.setBytes a bs s).draws = s.draws := by
  induction bs generalizing a s with
  | nil => rfl
  | cons b bs ih => simp [State.setBytes, ih]

/-! ### storeRegs -/

@[simp] theorem State.storeRegs_v (s : State) (n : Nat) : (s.storeRegs n).v = s.v := by
  induction n with
  | zero => rfl
  | succ n ih => simp [State.storeRegs, ih]
@[simp] theorem State.storeRegs_i (s : State) (n : Nat) : (s.storeRegs n).i = s.i := by
  induction n with
  | zero => rfl
  | succ n ih => simp [State.storeRegs, ih]
@[simp] theorem State.storeRegs_pc (s : State) (n : Nat) : (s.storeRegs n).pc = s.pc := by
  induction n with
  | zero => rfl
  | succ n ih => simp [State.storeRegs, ih]
@[simp] theorem State.storeRegs_stack (s : State) (n : Nat) : (s.storeRegs n).stack = s.stack := by
  induction n with
  | zero => rfl
  | succ n ih => simp [State.storeRegs, ih]
@[simp] theorem State.storeRegs_dt (s : State) (n : Nat) : (s.storeRegs n).dt = s.dt := by
  induction n with
  | zero => rfl
  | succ n ih => simp [State.storeRegs, ih]
@[simp] theorem State.storeRegs_st (s : State) (n : Nat) : (s.storeRegs n).st = s.st := by
  induction n with
  | zero => rfl
  | succ n ih => simp [State.storeRegs, ih]
@[simp] theorem State.storeRegs_fb (s : State) (n : Nat) : (s.storeRegs n).fb = s.fb := by
  induction n with
  | zero => rfl
  | succ n ih => simp [State.storeRegs, ih]
@[simp] theorem State.storeRegs_keys (s : State) (n : Nat) : (s.storeRegs n).keys = s.keys := by
  induction n with
  | zero => rfl
  | succ n ih => simp [State.storeRegs, ih]
@[simp] theorem State.storeRegs_fault (s : State) (n : Nat) : (s.storeRegs n).fault = s.fault := by
  induction n with
  | zero => rfl
  | succ n ih => simp [State.storeRegs, ih]
@[simp] theorem State.storeRegs_randomIn (s : State) (n : Nat) : (s.storeRegs n).randomIn = s.randomIn := by
  induction n with
  | zero => rfl
  | succ n ih => simp [State.storeRegs, ih]
@[simp] theorem State.storeRegs_draws (s : State) (n : Nat) : (s.storeRegs n).draws = s.draws := by
  induction n with
  | zero => rfl
  | succ n ih => simp [State.storeRegs, ih]

/-! ### loadRegs -/

@[simp] theorem State.loadRegs_i (s : State) (n : Nat) : (s.loadRegs n).i = s.i := by
  induction n with
  | zero => rfl
  | succ n ih => simp [State.loadRegs, ih]
@[simp] theorem State.loadRegs_pc (s : State) (n : Nat) : (s.loadRegs n).pc = s.pc := by
  induction n with
  | zero => rfl
  | succ n ih => simp [State.loadRegs, ih]
@[simp] theorem State.loadRegs_stack (s : State) (n : Nat) : (s.loadRegs n).stack = s.stack := by
  induction n with
  | zero => rfl
  | succ n ih => simp [State.loadRegs, ih]
@[simp] theorem State.loadRegs_dt (s : State) (n : Nat) : (s.loadRegs n).dt = s.dt := by
  induction n with
  | zero => rfl
  | succ n ih => simp [State.loadRegs, ih]
@[simp] theorem State.loadRegs_st (s : State) (n : Nat) : (s.loadRegs n).st = s.st := by
  induction n with
  | zero => rfl
  | succ n ih => simp [State.loadRegs, ih]
@[simp] theorem State.loadRegs_mem (s : State) (n : Nat) : (s.loadRegs n).mem = s.mem := by
  induction n with
  | zero => rfl
  | succ n ih => simp [State.loadRegs, ih]
@[simp] theorem State.loadRegs_fb (s : State) (n : Nat) : (s.loadRegs n).fb = s.fb := by
  induction n with
  | zero => rfl
  | succ n ih => simp [State.loadRegs, ih]
@[simp] theorem State.loadRegs_keys (s : State) (n : Nat) : (s.loadRegs n).keys = s.keys := by
  induction n with
  | zero => rfl
  | succ n ih => simp [State.loadRegs, ih]
@[simp] theorem State.loadRegs_fault (s : State) (n : Nat) : (s.loadRegs n).fault = s.fault := by
  induction n with
  | zero => rfl
  | succ n ih => simp [State.loadRegs, ih]
@[simp] theorem State.loadRegs_randomIn (s : State) (n : Nat) : (s.loadRegs n).randomIn = s.randomIn := by
  induction n with
  | zero => rfl
  | succ n ih => simp [State.loadRegs, ih]
@[simp] theorem State.loadRegs_draws (s : State) (n : Nat) : (s.loadRegs n).draws = s.draws := by
  induction n with
  | zero => rfl
  | succ n ih => simp [State.loadRegs, ih]

/-! ### load -/

@[simp] theorem State.load_v (rom : List Byte) (s : State) : (s.load rom).v = s.v := by simp [State.load]
@[simp] theorem State.load_i (rom : List Byte) (s : State) : (s.load rom).i = s.i := by simp [State.load]
@[simp] theorem State.load_pc (rom : List Byte) (s : State) : (s.load rom).pc = s.pc := by simp [State.load]
@[simp] theorem State.load_stack (rom : List Byte) (s : State) : (s.load rom).stack = s.stack := by simp [State.load]
@[simp] theorem State.load_dt (rom : List Byte) (s : State) : (s.load rom).dt = s.dt := by simp [State.load]
@[simp] theorem State.load_st (rom : List Byte) (s : State) : (s.load rom).st = s.st := by simp [State.load]
@[simp] theorem State.load_fb (rom : List Byte) (s : State) : (s.load rom).fb = s.fb := by simp [State.load]
@[simp] theorem State.load_keys (rom : List Byte) (s : State) : (s.load rom).keys = s.keys := by simp [State.load]
@[simp] theorem State.load_fault (rom : List Byte) (s : State) : (s.load rom).fault = s.fault := by simp [State.load]
@[simp] theorem State.load_randomIn (rom : List Byte) (s : State) : (s.load rom).randomIn = s.randomIn := by simp [State.load]
@[simp] theorem State.load_draws (rom : List Byte) (s : State) : (s.load rom).draws = s.draws := by simp [State.load]

/-! ### reset -/

@[simp] theorem State.reset_v : State.reset.v = Vector.replicate 16 0x00 := rfl
@[simp] theorem State.reset_i : State.reset.i = 0x0000 := rfl
@[simp] theorem State.reset_pc : State.reset.pc = 0x0200 := rfl
@[simp] theorem State.reset_stack : State.reset.stack = [] := rfl
@[simp] theorem State.reset_dt : State.reset.dt = 0x00 := rfl
@[simp] theorem State.reset_st : State.reset.st = 0x00 := rfl
@[simp] theorem State.reset_mem : State.reset.mem = [] := rfl
@[simp] theorem State.reset_fb : State.reset.fb = Vector.replicate 32 0 := rfl
@[simp] theorem State.reset_keys : State.reset.keys = Vector.replicate 16 false := rfl
@[simp] theorem State.reset_fault : State.reset.fault = none := rfl

@[simp] theorem State.init_v (s : State) : s.init.v = State.reset.v := rfl
@[simp] theorem State.init_i (s : State) : s.init.i = State.reset.i := rfl
@[simp] theorem State.init_pc (s : State) : s.init.pc = State.reset.pc := rfl
@[simp] theorem State.init_stack (s : State) : s.init.stack = State.reset.stack := rfl
@[simp] theorem State.init_dt (s : State) : s.init.dt = State.reset.dt := rfl
@[simp] theorem State.init_st (s : State) : s.init.st = State.reset.st := rfl
@[simp] theorem State.init_mem (s : State) : s.init.mem = State.reset.mem := rfl
@[simp] theorem State.init_fb (s : State) : s.init.fb = State.reset.fb := rfl
@[simp] theorem State.init_keys (s : State) : s.init.keys = State.reset.keys := rfl
@[simp] theorem State.init_fault (s : State) : s.init.fault = State.reset.fault := rfl
@[simp] theorem State.init_randomIn (s : State) : s.init.randomIn = s.randomIn := rfl
@[simp] theorem State.init_draws (s : State) : s.init.draws = s.draws := rfl

end Sys2Proof.Machine
end

