-- ==== Sys2Proof/Laws/Memory.lean ====
section
/-! SUPPORT. Memory: read after write, and that every operation keeps the canonical form. -/

namespace Sys2Proof.Machine

theorem maskAddr_lt (a : Nat) : maskAddr a < Config.memSize := Nat.mod_lt _ (by decide)

@[simp] theorem maskAddr_maskAddr (a : Nat) : maskAddr (maskAddr a) = maskAddr a := Nat.mod_mod _ _

@[simp] theorem Memory.lookup_nil (a : Nat) : Memory.lookup a [] = Memory.unlisted := rfl

@[simp] theorem Memory.lookup_cons (a : Nat) (c : Host.Cell) (m : Memory) :
    Memory.lookup a (c :: m) = if c.1 = a then c.2 else Memory.lookup a m := rfl

/-- An address below every listed one reads as an unlisted address. -/
theorem Memory.lookup_of_lt {a : Nat} {m : Memory} (h : ∀ c ∈ m, a < c.1) : Memory.lookup a m = Memory.unlisted := by
  induction m with
  | nil => rfl
  | cons c m ih =>
    have hc := h c (by simp)
    have := ih fun d hd => h d (by simp [hd])
    simp [this]; omega

/-- What a lookup gives after a put, on sorted memory. -/
theorem Memory.lookup_put {m : Memory} (hs : m.Pairwise (fun c d => c.1 < d.1)) (a b : Nat) (v : Byte) :
    Memory.lookup b (Memory.put a v m) = if b = a then v else Memory.lookup b m := by
  induction m with
  | nil => by_cases hv : v = Memory.unlisted <;> simp [Memory.put, hv, eq_comm]
  | cons c m ih =>
    obtain ⟨hc, hm⟩ := List.pairwise_cons.mp hs
    have hlow : a ≤ c.1 → Memory.lookup a m = Memory.unlisted := fun h =>
      Memory.lookup_of_lt fun d hd => lt_of_le_of_lt h (hc d hd)
    unfold Memory.put
    rcases Nat.lt_trichotomy a c.1 with h | h | h
    · by_cases hv : v = Memory.unlisted <;> by_cases hb : b = a
      · subst hb; simp [h, hv, hlow h.le]; omega
      · simp [h, hv, hb]
      · subst hb; simp [h, hv]
      · simp [h, hv, hb, Ne.symm hb]
    · subst h
      by_cases hv : v = Memory.unlisted <;> by_cases hb : b = c.1
      · subst hb; simp [hv, hlow le_rfl]
      · simp [hv, hb, Ne.symm hb]
      · subst hb; simp [hv]
      · simp [hv, hb, Ne.symm hb]
    · have h1 : ¬a < c.1 := by omega
      have h2 : a ≠ c.1 := by omega
      by_cases hb : b = c.1
      · subst hb; simp [h1, h2, Ne.symm h2]
      · simp [h1, h2, ih hm, Ne.symm hb]

/-- Every cell after a put was listed before or is the one put. -/
theorem Memory.mem_put {m : Memory} {a : Nat} {v : Byte} {c : Host.Cell} (h : c ∈ Memory.put a v m) :
    c ∈ m ∨ (c = (a, v) ∧ v ≠ Memory.unlisted) := by
  induction m with
  | nil => by_cases hv : v = Memory.unlisted <;> simp_all [Memory.put]
  | cons d m ih =>
    unfold Memory.put at h
    split at h
    · split at h <;> simp_all; tauto
    · split at h
      · split at h <;> simp_all; tauto
      · rcases List.mem_cons.mp h with h | h
        · simp [h]
        · rcases ih h with h | h <;> simp [h]

theorem Memory.pairwise_put {m : Memory} (hs : m.Pairwise (fun c d => c.1 < d.1)) (a : Nat) (v : Byte) :
    (Memory.put a v m).Pairwise (fun c d => c.1 < d.1) := by
  induction m with
  | nil => by_cases hv : v = Memory.unlisted <;> simp [Memory.put, hv]
  | cons c m ih =>
    obtain ⟨hc, hm⟩ := List.pairwise_cons.mp hs
    unfold Memory.put
    split
    · rename_i hlt
      split
      · exact hs
      · refine List.pairwise_cons.mpr ⟨fun d hd => ?_, hs⟩
        rcases List.mem_cons.mp hd with rfl | hd
        · exact hlt
        · exact hlt.trans (hc d hd)
    · split
      · rename_i heq
        split
        · exact hm
        · exact List.pairwise_cons.mpr ⟨fun d hd => heq ▸ hc d hd, hm⟩
      · refine List.pairwise_cons.mpr ⟨fun d hd => ?_, ih hm⟩
        rcases Memory.mem_put hd with hd | ⟨rfl, -⟩
        · exact hc d hd
        · show c.1 < a; omega

/-- The empty memory is canonical. -/
theorem Memory.wf_nil : Memory.wf [] := ⟨List.Pairwise.nil, fun _ h => by cases h⟩

/-- A write keeps the canonical form. -/
theorem Memory.wf_write {m : Memory} (h : m.wf) (a : Nat) (b : Byte) : (m.write a b).wf := by
  refine ⟨Memory.pairwise_put h.1 _ _, fun c hc => ?_⟩
  rcases Memory.mem_put hc with hc | ⟨rfl, hb⟩
  · exact h.2 c hc
  · exact ⟨maskAddr_lt a, hb⟩

/-- A read after a write, on canonical memory. -/
theorem Memory.read_write {m : Memory} (h : m.wf) (a b : Nat) (v : Byte) :
    (m.write a v).read b = if maskAddr b = maskAddr a then v else m.read b :=
  Memory.lookup_put h.1 _ _ _

/-- Only the low 12 bits of an address count (R51). -/
theorem Memory.read_maskAddr (m : Memory) (a : Nat) : m.read (maskAddr a) = m.read a := by simp [Memory.read]

/-- Addresses with the same low 12 bits read alike (R51). -/
theorem State.byteAt_congr (s : State) {a b : Nat} (h : a % 4096 = b % 4096) : s.byteAt a = s.byteAt b := by
  simp only [State.byteAt, Memory.read, maskAddr, h]

/-- A read of the state's memory after one byte is written. -/
theorem State.byteAt_setByte {s : State} (h : s.mem.wf) (a b : Nat) (v : Byte) :
    (s.setByte a v).byteAt b = if maskAddr b = maskAddr a then v else s.byteAt b :=
  Memory.read_write h a b v

theorem State.mem_wf_setByte {s : State} (h : s.mem.wf) (a : Nat) (v : Byte) : (s.setByte a v).mem.wf :=
  Memory.wf_write h a v

theorem State.mem_wf_setBytes {s : State} (h : s.mem.wf) (a : Nat) (bs : List Byte) :
    (State.setBytes a bs s).mem.wf := by
  induction bs generalizing a s with
  | nil => exact h
  | cons b bs ih => exact ih (State.mem_wf_setByte h a b) _

theorem State.mem_wf_storeRegs {s : State} (h : s.mem.wf) (n : Nat) : (s.storeRegs n).mem.wf := by
  induction n with
  | zero => exact h
  | succ n ih => exact State.mem_wf_setByte ih _ _

theorem State.mem_wf_load {s : State} (h : s.mem.wf) (rom : List Byte) : (s.load rom).mem.wf :=
  State.mem_wf_setBytes (State.mem_wf_setBytes h _ _) _ _

end Sys2Proof.Machine
end

