-- ==== Sys2Proof/Laws/Registers.lean ====
section
/-! SUPPORT. Registers, keys and pixels through the updates of the state, and what the register transfers do. -/

namespace Sys2Proof.Machine

/-! ## Reads through one update -/

@[simp] theorem State.reg_setReg (s : State) (r q : Reg) (b : Byte) :
    (s.setReg r b).reg q = if q = r then b else s.reg q := by
  simp [State.reg, Vector.get_eq_getElem, Vector.getElem_set, Fin.ext_iff, eq_comm]

@[simp] theorem State.reg_setRegThenFlag (s : State) (r q : Reg) (b f : Byte) :
    (s.setRegThenFlag r b f).reg q = if q = VF then f else if q = r then b else s.reg q := by
  simp only [State.setRegThenFlag, State.reg_setReg]

@[simp] theorem State.reg_setByte (s : State) (a : Nat) (b : Byte) (q : Reg) : (s.setByte a b).reg q = s.reg q := rfl
@[simp] theorem State.reg_advance (s : State) (q : Reg) : s.advance.reg q = s.reg q := rfl
@[simp] theorem State.reg_skipIf (s : State) (b : Bool) (q : Reg) : (s.skipIf b).reg q = s.reg q := rfl
@[simp] theorem State.reg_jumpTo (s : State) (a : Word) (q : Reg) : (s.jumpTo a).reg q = s.reg q := rfl
@[simp] theorem State.reg_push (s : State) (a : Word) (q : Reg) : (s.push a).reg q = s.reg q := rfl
@[simp] theorem State.reg_setI (s : State) (a : Word) (q : Reg) : (s.setI a).reg q = s.reg q := rfl
@[simp] theorem State.reg_setDt (s : State) (b : Byte) (q : Reg) : (s.setDt b).reg q = s.reg q := rfl
@[simp] theorem State.reg_setSt (s : State) (b : Byte) (q : Reg) : (s.setSt b).reg q = s.reg q := rfl
@[simp] theorem State.reg_dropTop (s : State) (q : Reg) : s.dropTop.reg q = s.reg q := rfl
@[simp] theorem State.reg_setFb (s : State) (fb : Framebuffer) (q : Reg) : (s.setFb fb).reg q = s.reg q := rfl
@[simp] theorem State.reg_tick (s : State) (q : Reg) : s.tick.reg q = s.reg q := rfl
@[simp] theorem State.reg_setKey (k : Fin 16) (b : Bool) (s : State) (q : Reg) : (s.setKey k b).reg q = s.reg q := rfl
@[simp] theorem State.reg_placeWord (s : State) (w : Word) (q : Reg) : (s.placeWord w).reg q = s.reg q := rfl
@[simp] theorem State.reg_consumeRandom (s : State) (q : Reg) : s.consumeRandom.reg q = s.reg q := by
  simp [State.reg]
@[simp] theorem State.reg_storeRegs (s : State) (n : Nat) (q : Reg) : (s.storeRegs n).reg q = s.reg q := by
  simp [State.reg]
@[simp] theorem State.reg_load (rom : List Byte) (s : State) (q : Reg) : (s.load rom).reg q = s.reg q := by
  simp [State.reg]
@[simp] theorem State.reg_afterDraw (s : State) (c : Canvas) (q : Reg) :
    (s.afterDraw c).reg q = if q = VF then flagByte c.hit else s.reg q := State.reg_setReg _ _ _ _

@[simp] theorem State.byteAt_setReg (s : State) (r : Reg) (b : Byte) (a : Nat) :
    (s.setReg r b).byteAt a = s.byteAt a := rfl
@[simp] theorem State.byteAt_setRegThenFlag (s : State) (r : Reg) (b f : Byte) (a : Nat) :
    (s.setRegThenFlag r b f).byteAt a = s.byteAt a := rfl
@[simp] theorem State.byteAt_advance (s : State) (a : Nat) : s.advance.byteAt a = s.byteAt a := rfl
@[simp] theorem State.byteAt_skipIf (s : State) (b : Bool) (a : Nat) : (s.skipIf b).byteAt a = s.byteAt a := rfl
@[simp] theorem State.byteAt_jumpTo (s : State) (t : Word) (a : Nat) : (s.jumpTo t).byteAt a = s.byteAt a := rfl
@[simp] theorem State.byteAt_push (s : State) (t : Word) (a : Nat) : (s.push t).byteAt a = s.byteAt a := rfl
@[simp] theorem State.byteAt_setI (s : State) (t : Word) (a : Nat) : (s.setI t).byteAt a = s.byteAt a := rfl
@[simp] theorem State.byteAt_setDt (s : State) (b : Byte) (a : Nat) : (s.setDt b).byteAt a = s.byteAt a := rfl
@[simp] theorem State.byteAt_setSt (s : State) (b : Byte) (a : Nat) : (s.setSt b).byteAt a = s.byteAt a := rfl
@[simp] theorem State.byteAt_dropTop (s : State) (a : Nat) : s.dropTop.byteAt a = s.byteAt a := rfl
@[simp] theorem State.byteAt_setFb (s : State) (fb : Framebuffer) (a : Nat) : (s.setFb fb).byteAt a = s.byteAt a := rfl
@[simp] theorem State.byteAt_tick (s : State) (a : Nat) : s.tick.byteAt a = s.byteAt a := rfl
@[simp] theorem State.byteAt_setKey (k : Fin 16) (b : Bool) (s : State) (a : Nat) :
    (s.setKey k b).byteAt a = s.byteAt a := rfl
@[simp] theorem State.byteAt_afterDraw (s : State) (c : Canvas) (a : Nat) :
    (s.afterDraw c).byteAt a = s.byteAt a := rfl
@[simp] theorem State.byteAt_consumeRandom (s : State) (a : Nat) : s.consumeRandom.byteAt a = s.byteAt a := by
  simp [State.byteAt]
@[simp] theorem State.byteAt_loadRegs (s : State) (n a : Nat) : (s.loadRegs n).byteAt a = s.byteAt a := by
  simp [State.byteAt]

@[simp] theorem State.key_setKey (k q : Fin 16) (b : Bool) (s : State) :
    (s.setKey k b).key q = if q = k then b else s.key q := by
  simp [State.key, Vector.get_eq_getElem, Vector.getElem_set, Fin.ext_iff, eq_comm]

@[simp] theorem State.indexed_setByte (s : State) (a k : Nat) (b : Byte) : (s.setByte a b).indexed k = s.indexed k := rfl

/-! ## Register transfers -/

/-- The first `n` registers after a load are the bytes from I, the others as before (R175). -/
theorem State.reg_loadRegs (s : State) {n : Nat} (hn : n ≤ 16) (q : Reg) :
    (s.loadRegs n).reg q = if q.val < n then s.byteAt (s.indexed q.val) else s.reg q := by
  induction n with
  | zero => simp [State.loadRegs]
  | succ n ih =>
    have hk : (Fin.ofNat 16 n).val = n := Nat.mod_eq_of_lt (by omega)
    rw [State.loadRegs, State.reg_setReg, ih (by omega)]
    by_cases hq : q = Fin.ofNat 16 n
    · have : q.val = n := by rw [hq, hk]
      simp [hq, Nat.mod_eq_of_lt (show n < 16 by omega)]
    · have : q.val ≠ n := fun h => hq (Fin.ext (by rw [hk, h]))
      simp only [hq, if_false]
      by_cases hlt : q.val < n
      · simp [hlt, Nat.lt_succ_of_lt hlt]
      · simp [hlt, show ¬q.val < n + 1 by omega]

/-- Offsets up to 4096 apart from I name different bytes. -/
theorem State.maskAddr_indexed_inj (s : State) {j k : Nat} (hj : j < 4096) (hk : k < 4096)
    (h : maskAddr (s.indexed j) = maskAddr (s.indexed k)) : j = k := by
  simp only [maskAddr, State.indexed] at h; omega

/-- What a store of the first `n` registers leaves at an address it stores to (R174). -/
theorem State.byteAt_storeRegs_indexed {s : State} (hm : s.mem.wf) {n k : Nat} (hn : n ≤ 16) (hk : k < n) :
    (s.storeRegs n).byteAt (s.indexed k) = s.reg (Fin.ofNat 16 k) := by
  induction n with
  | zero => omega
  | succ n ih =>
    rw [State.storeRegs, State.byteAt_setByte (State.mem_wf_storeRegs hm n)]
    by_cases h : k = n
    · simp [h]
    · have : maskAddr (s.indexed k) ≠ maskAddr (s.indexed n) := fun e =>
        h (s.maskAddr_indexed_inj (by omega) (by omega) e)
      simp [this, ih (by omega) (by omega)]

/-- A store of the first `n` registers leaves every other byte alone (R174). -/
theorem State.byteAt_storeRegs_other {s : State} (hm : s.mem.wf) {n a : Nat}
    (h : ∀ k < n, maskAddr a ≠ maskAddr (s.indexed k)) : (s.storeRegs n).byteAt a = s.byteAt a := by
  induction n with
  | zero => rfl
  | succ n ih =>
    rw [State.storeRegs, State.byteAt_setByte (State.mem_wf_storeRegs hm n)]
    simp [h n (by omega), ih fun k hk => h k (by omega)]

/-- What a run of bytes leaves at each address (R272, R273). -/
theorem State.byteAt_setBytes {s : State} (hm : s.mem.wf) {a b : Nat} {bs : List Byte}
    (hfit : a + bs.length ≤ 4096) (hb : b < 4096) :
    (State.setBytes a bs s).byteAt b = if a ≤ b then (bs[b - a]?).getD (s.byteAt b) else s.byteAt b := by
  induction bs generalizing a s with
  | nil => simp [State.setBytes]
  | cons c bs ih =>
    simp only [List.length_cons] at hfit
    rw [State.setBytes, ih (State.mem_wf_setByte hm a c) (by omega), State.byteAt_setByte hm]
    have hma : maskAddr a = a := Nat.mod_eq_of_lt (by omega)
    have hmb : maskAddr b = b := Nat.mod_eq_of_lt hb
    rw [hma, hmb]
    rcases Nat.lt_trichotomy b a with h | h | h
    · simp [show ¬a ≤ b by omega, show ¬a + 1 ≤ b by omega, show b ≠ a by omega]
    · simp [h]
    · obtain ⟨d, rfl⟩ : ∃ d, b = a + 1 + d := ⟨b - a - 1, by omega⟩
      simp [show a + 1 + d - a = d + 1 by omega, show a ≤ a + 1 + d by omega, show a + 1 + d ≠ a by omega]

end Sys2Proof.Machine
end

