-- ==== Sys2Proof/Laws/Display.lean ====
section
/-! SUPPORT. The sprite compositor: what a flip, a pixel, a row and a sprite do to every pixel and to the collision. -/

namespace Sys2Proof.Machine

/-- A flip inverts its pixel and no other. -/
theorem Framebuffer.pixel_flip (fb : Framebuffer) (x px : Fin 64) (y py : Fin 32) :
    (fb.flip x y).pixel px py = (fb.pixel px py ^^ decide (px = x ∧ py = y)) := by
  simp only [Framebuffer.pixel, Framebuffer.flip, Vector.get_eq_getElem, Vector.getElem_set]
  by_cases hy : y.val = py.val
  · have hy' : py = y := Fin.ext hy.symm
    subst hy'
    by_cases hx : px = x
    · subst hx
      simp [BitVec.getMsbD_eq_getLsbD, show 63 - px.val < 64 by omega]
    · have : x.val ≠ px.val := fun h => hx (Fin.ext h.symm)
      have hne : 63 - x.val ≠ 63 - px.val := by omega
      simp [BitVec.getMsbD_eq_getLsbD, BitVec.getLsbD_twoPow, hx, hne]
  · have : py ≠ y := fun h => hy (by rw [h])
    simp [hy, this]

theorem Framebuffer.pixel_dark (x : Fin 64) (y : Fin 32) : Framebuffer.dark.pixel x y = false := by
  simp [Framebuffer.dark, Framebuffer.pixel, Vector.get_eq_getElem]

/-- Where a sprite pixel lands it keeps its column and row modulo the display size (R194). -/
theorem placePixel_mod {e : DrawEdge} {x y : Nat} {p : Fin 64 × Fin 32} (h : placePixel e x y = some p) :
    x % 64 = p.1.val ∧ y % 32 = p.2.val := by
  cases e with
  | clip =>
    simp only [placePixel] at h
    split at h
    · rename_i hb; cases h; exact ⟨Nat.mod_eq_of_lt hb.1, Nat.mod_eq_of_lt hb.2⟩
    · cases h
  | wrap => cases h; simp

/-- A drawn pixel inverts the pixel it lands on, if any, and collides when that was lit (R191, R195). -/
theorem Canvas.drawPixel_spec (e : DrawEdge) (x y : Nat) (c : Canvas) (p : Fin 64 × Fin 32) :
    (c.drawPixel e x y).fb.pixel p.1 p.2 = (c.fb.pixel p.1 p.2 ^^ decide (placePixel e x y = some p)) := by
  cases h : placePixel e x y with
  | none => simp [Canvas.drawPixel, h]
  | some q => simp [Canvas.drawPixel, h, Framebuffer.pixel_flip, Prod.ext_iff, eq_comm]

theorem Canvas.drawPixel_hit (e : DrawEdge) (x y : Nat) (c : Canvas) :
    (c.drawPixel e x y).hit = true ↔ c.hit = true ∨ ∃ p, placePixel e x y = some p ∧ c.fb.pixel p.1 p.2 = true := by
  cases h : placePixel e x y with
  | none => simp [Canvas.drawPixel, h]
  | some q => simp [Canvas.drawPixel, h]

/-- One of the first `k` columns of a sprite row is set and lands on `p`. -/
def RowCovers (e : DrawEdge) (row : Byte) (x0 y k : Nat) (p : Fin 64 × Fin 32) : Prop :=
  ∃ c < k, row.getMsbD c = true ∧ placePixel e (x0 + c) y = some p

theorem RowCovers_succ (e : DrawEdge) (row : Byte) (x0 y k : Nat) (p : Fin 64 × Fin 32) :
    RowCovers e row x0 y (k + 1) p ↔
      RowCovers e row x0 y k p ∨ (row.getMsbD k = true ∧ placePixel e (x0 + k) y = some p) := by
  constructor
  · rintro ⟨c, hc, hb, hp⟩
    rcases Nat.lt_succ_iff_lt_or_eq.mp hc with h | rfl
    · exact .inl ⟨c, h, hb, hp⟩
    · exact .inr ⟨hb, hp⟩
  · rintro (⟨c, hc, hb, hp⟩ | ⟨hb, hp⟩)
    · exact ⟨c, by omega, hb, hp⟩
    · exact ⟨k, by omega, hb, hp⟩

/-- A row of at most 64 columns lands on a pixel once: a column already drawn is not met again. -/
theorem RowCovers_fresh {e : DrawEdge} {row : Byte} {x0 y k : Nat} {p : Fin 64 × Fin 32} (hk : k < 64)
    (hp : placePixel e (x0 + k) y = some p) : ¬RowCovers e row x0 y k p := by
  rintro ⟨c, hc, -, hq⟩
  have h1 := (placePixel_mod hp).1
  have h2 := (placePixel_mod hq).1
  omega

/-- What the first `k` columns of a sprite row do to every pixel and to the collision (R191, R192, R195). -/
theorem Canvas.drawCols_spec (e : DrawEdge) (row : Byte) (x0 y k : Nat) (hk : k ≤ 64) (c : Canvas) :
    (∀ p : Fin 64 × Fin 32, (Canvas.drawCols e row x0 y k c).fb.pixel p.1 p.2 = true ↔
      (c.fb.pixel p.1 p.2 = true ↔ ¬RowCovers e row x0 y k p)) ∧
    ((Canvas.drawCols e row x0 y k c).hit = true ↔
      c.hit = true ∨ ∃ p : Fin 64 × Fin 32, RowCovers e row x0 y k p ∧ c.fb.pixel p.1 p.2 = true) := by
  induction k with
  | zero => simp [Canvas.drawCols, RowCovers]
  | succ k ih =>
    obtain ⟨ihp, ihh⟩ := ih (by omega)
    by_cases hb : row.getMsbD k = true
    · simp only [Canvas.drawCols, hb, if_true]
      refine ⟨fun p => ?_, ?_⟩
      · rw [Canvas.drawPixel_spec]
        simp only [RowCovers_succ, hb, true_and]
        by_cases hp : placePixel e (x0 + k) y = some p
        · have hf := RowCovers_fresh (row := row) (by omega : k < 64) hp
          have h := ihp p
          simp only [hf, not_false_eq_true, iff_true] at h
          simp [hp, ← h]
        · have := ihp p
          simp only [hp, decide_false, or_false, ← this]
          simp
      · rw [Canvas.drawPixel_hit, ihh]
        simp only [RowCovers_succ, hb, true_and]
        constructor
        · rintro ((h | ⟨p, hc, hl⟩) | ⟨p, hp, hl⟩)
          · exact .inl h
          · exact .inr ⟨p, .inl hc, hl⟩
          · have hf := RowCovers_fresh (row := row) (by omega : k < 64) hp
            exact .inr ⟨p, .inr hp, ((ihp p).mp hl).mpr hf⟩
        · rintro (h | ⟨p, hc | hp, hl⟩)
          · exact .inl (.inl h)
          · exact .inl (.inr ⟨p, hc, hl⟩)
          · have hf := RowCovers_fresh (row := row) (by omega : k < 64) hp
            exact .inr ⟨p, hp, (ihp p).mpr (iff_of_true hl hf)⟩
    · have hs : ∀ p, RowCovers e row x0 y (k + 1) p ↔ RowCovers e row x0 y k p := fun p => by
        simp [RowCovers_succ, hb]
      simp only [Canvas.drawCols, hb, hs]
      exact ⟨ihp, ihh⟩

/-- One of the first `n` rows of a sprite covers `p`. -/
def RowsCover (e : DrawEdge) (sprite : Nat → Byte) (x0 y0 n : Nat) (p : Fin 64 × Fin 32) : Prop :=
  ∃ r < n, RowCovers e (sprite r) x0 (y0 + r) 8 p

theorem RowsCover_succ (e : DrawEdge) (sprite : Nat → Byte) (x0 y0 n : Nat) (p : Fin 64 × Fin 32) :
    RowsCover e sprite x0 y0 (n + 1) p ↔
      RowsCover e sprite x0 y0 n p ∨ RowCovers e (sprite n) x0 (y0 + n) 8 p := by
  constructor
  · rintro ⟨r, hr, h⟩
    rcases Nat.lt_succ_iff_lt_or_eq.mp hr with h' | rfl
    · exact .inl ⟨r, h', h⟩
    · exact .inr h
  · rintro (⟨r, hr, h⟩ | h)
    · exact ⟨r, by omega, h⟩
    · exact ⟨n, by omega, h⟩

/-- A sprite of at most 32 rows lands on a pixel once: a row already drawn is not met again. -/
theorem RowsCover_fresh {e : DrawEdge} {sprite : Nat → Byte} {x0 y0 n : Nat} {p : Fin 64 × Fin 32} (hn : n < 32)
    (hp : RowCovers e (sprite n) x0 (y0 + n) 8 p) : ¬RowsCover e sprite x0 y0 n p := by
  rintro ⟨r, hr, c, -, -, hq⟩
  obtain ⟨c', -, -, hp⟩ := hp
  have h1 := (placePixel_mod hp).2
  have h2 := (placePixel_mod hq).2
  omega

/-- What the first `n` rows of a sprite do to every pixel and to the collision (R191, R195). -/
theorem Canvas.drawRows_spec (e : DrawEdge) (sprite : Nat → Byte) (x0 y0 n : Nat) (hn : n ≤ 32) (c : Canvas) :
    (∀ p : Fin 64 × Fin 32, (Canvas.drawRows e sprite x0 y0 n c).fb.pixel p.1 p.2 = true ↔
      (c.fb.pixel p.1 p.2 = true ↔ ¬RowsCover e sprite x0 y0 n p)) ∧
    ((Canvas.drawRows e sprite x0 y0 n c).hit = true ↔
      c.hit = true ∨ ∃ p : Fin 64 × Fin 32, RowsCover e sprite x0 y0 n p ∧ c.fb.pixel p.1 p.2 = true) := by
  induction n with
  | zero => simp [Canvas.drawRows, RowsCover]
  | succ n ih =>
    obtain ⟨ihp, ihh⟩ := ih (by omega)
    obtain ⟨hp, hh⟩ := Canvas.drawCols_spec e (sprite n) x0 (y0 + n) 8 (by decide)
      (Canvas.drawRows e sprite x0 y0 n c)
    have fresh : ∀ {p}, RowCovers e (sprite n) x0 (y0 + n) 8 p → ¬RowsCover e sprite x0 y0 n p :=
      RowsCover_fresh (by omega)
    simp only [Canvas.drawRows]
    refine ⟨fun p => ?_, ?_⟩
    · rw [hp p, ihp p, RowsCover_succ]
      by_cases hr : RowCovers e (sprite n) x0 (y0 + n) 8 p
      · simp [hr, fresh hr]
      · simp [hr]
    · rw [hh, ihh]
      simp only [RowsCover_succ]
      constructor
      · rintro ((h | ⟨p, hc, hl⟩) | ⟨p, hc, hl⟩)
        · exact .inl h
        · exact .inr ⟨p, .inl hc, hl⟩
        · exact .inr ⟨p, .inr hc, ((ihp p).mp hl).mpr (fresh hc)⟩
      · rintro (h | ⟨p, hc | hc, hl⟩)
        · exact .inl (.inl h)
        · exact .inl (.inr ⟨p, hc, hl⟩)
        · exact .inr ⟨p, hc, (ihp p).mpr (iff_of_true hl (fresh hc))⟩

end Sys2Proof.Machine
end

