-- ==== Sys2Proof/Laws/PerInstr.lean ====
section
/-! SUPPORT. Laws stated instruction by instruction. -/

namespace Sys2Proof.Laws.EncodedFamily

/-- The family nibble of an instruction (R73, R74). -/
def family : Instr → Nat
  | .cls | .ret => 0x0
  | .jp _ => 0x1
  | .call _ => 0x2
  | .seImm _ _ => 0x3
  | .sneImm _ _ => 0x4
  | .seReg _ _ => 0x5
  | .ldImm _ _ => 0x6
  | .addImm _ _ => 0x7
  | .ldReg _ _ | .orReg _ _ | .andReg _ _ | .xorReg _ _ | .addReg _ _ | .sub _ _ | .shr _ _ | .subn _ _ | .shl _ _ => 0x8
  | .sneReg _ _ => 0x9
  | .ldI _ => 0xA
  | .jpV0 _ => 0xB
  | .rnd _ _ => 0xC
  | .drw _ _ _ => 0xD
  | .skp _ | .sknp _ => 0xE
  | .ldVxDt _ | .ldVxK _ | .ldDtVx _ | .ldStVx _ | .addIVx _ | .ldFVx _ | .ldBVx _ | .ldMemVx _ | .ldVxMem _ => 0xF

/-- The word of an instruction has its family in bits 15:12 (R71, R74). -/
def Statement (i : Instr) : Prop := fieldF (encode i) = family i

theorem cls : Statement .cls := rfl
theorem ret : Statement .ret := rfl
theorem jp (nnn : Addr) : Statement (.jp nnn) := fieldF_wordNNN (by decide) nnn
theorem call (nnn : Addr) : Statement (.call nnn) := fieldF_wordNNN (by decide) nnn
theorem seImm (x : Reg) (nn : Byte) : Statement (.seImm x nn) := fieldF_wordXNN (by decide) nn.isLt x
theorem sneImm (x : Reg) (nn : Byte) : Statement (.sneImm x nn) := fieldF_wordXNN (by decide) nn.isLt x
theorem seReg (x y : Reg) : Statement (.seReg x y) := fieldF_wordXYN (by decide) (by decide) x y
theorem ldImm (x : Reg) (nn : Byte) : Statement (.ldImm x nn) := fieldF_wordXNN (by decide) nn.isLt x
theorem addImm (x : Reg) (nn : Byte) : Statement (.addImm x nn) := fieldF_wordXNN (by decide) nn.isLt x
theorem ldReg (x y : Reg) : Statement (.ldReg x y) := fieldF_wordXYN (by decide) (by decide) x y
theorem orReg (x y : Reg) : Statement (.orReg x y) := fieldF_wordXYN (by decide) (by decide) x y
theorem andReg (x y : Reg) : Statement (.andReg x y) := fieldF_wordXYN (by decide) (by decide) x y
theorem xorReg (x y : Reg) : Statement (.xorReg x y) := fieldF_wordXYN (by decide) (by decide) x y
theorem addReg (x y : Reg) : Statement (.addReg x y) := fieldF_wordXYN (by decide) (by decide) x y
theorem sub (x y : Reg) : Statement (.sub x y) := fieldF_wordXYN (by decide) (by decide) x y
theorem shr (x y : Reg) : Statement (.shr x y) := fieldF_wordXYN (by decide) (by decide) x y
theorem subn (x y : Reg) : Statement (.subn x y) := fieldF_wordXYN (by decide) (by decide) x y
theorem shl (x y : Reg) : Statement (.shl x y) := fieldF_wordXYN (by decide) (by decide) x y
theorem sneReg (x y : Reg) : Statement (.sneReg x y) := fieldF_wordXYN (by decide) (by decide) x y
theorem ldI (nnn : Addr) : Statement (.ldI nnn) := fieldF_wordNNN (by decide) nnn
theorem jpV0 (nnn : Addr) : Statement (.jpV0 nnn) := fieldF_wordNNN (by decide) nnn
theorem rnd (x : Reg) (nn : Byte) : Statement (.rnd x nn) := fieldF_wordXNN (by decide) nn.isLt x
theorem drw (x y : Reg) (n : Fin 16) : Statement (.drw x y n) := fieldF_wordXYN (by decide) n.isLt x y
theorem skp (x : Reg) : Statement (.skp x) := fieldF_wordXNN (by decide) (by decide) x
theorem sknp (x : Reg) : Statement (.sknp x) := fieldF_wordXNN (by decide) (by decide) x
theorem ldVxDt (x : Reg) : Statement (.ldVxDt x) := fieldF_wordXNN (by decide) (by decide) x
theorem ldVxK (x : Reg) : Statement (.ldVxK x) := fieldF_wordXNN (by decide) (by decide) x
theorem ldDtVx (x : Reg) : Statement (.ldDtVx x) := fieldF_wordXNN (by decide) (by decide) x
theorem ldStVx (x : Reg) : Statement (.ldStVx x) := fieldF_wordXNN (by decide) (by decide) x
theorem addIVx (x : Reg) : Statement (.addIVx x) := fieldF_wordXNN (by decide) (by decide) x
theorem ldFVx (x : Reg) : Statement (.ldFVx x) := fieldF_wordXNN (by decide) (by decide) x
theorem ldBVx (x : Reg) : Statement (.ldBVx x) := fieldF_wordXNN (by decide) (by decide) x
theorem ldMemVx (x : Reg) : Statement (.ldMemVx x) := fieldF_wordXNN (by decide) (by decide) x
theorem ldVxMem (x : Reg) : Statement (.ldVxMem x) := fieldF_wordXNN (by decide) (by decide) x

end Sys2Proof.Laws.EncodedFamily
end

