-- ==== Sys2Proof/Laws/Step.lean ====
section
/-! SUPPORT. What one STEP and the ports can do, said once. -/

namespace Sys2Proof.Machine

/-- An error leaves everything but the fault latch as it was (R105). -/
@[simp] theorem raise_eq (f : Fault) (s : State) : raise f s = .next { s with fault := some f } := rfl

/-- All a STEP that answers a next state can be: an admitted state, and either a decoded instruction's effect or an
unsupported word (R100). -/
theorem step_cases {s t : State} (h : step s = .next t) :
    s.fault = none ∧
      ((∃ i, decodeWord s.fetchWord = .ok i ∧ exec i s = .next t) ∨
       (∃ e, decodeWord s.fetchWord = .error e ∧ t = { s with fault := some .unsupportedOpcode })) := by
  unfold step at h
  split at h
  · cases h
  · rename_i hf
    refine ⟨hf, ?_⟩
    split at h
    · rename_i i hi; exact .inl ⟨i, hi, h⟩
    · rename_i e he
      refine .inr ⟨e, he, ?_⟩
      rw [raise_eq, Host.Outcome.next.injEq] at h
      exact h.symm

/-- A step of an admitted state whose word is unsupported. -/
theorem step_of_error {s : State} {e : DecodeError} (hf : s.fault = none) (he : decodeWord s.fetchWord = .error e) :
    step s = .next { s with fault := some .unsupportedOpcode } := by
  simp [step, hf, he]

/-- The key flags answer an index below 16 and no other (R212). -/
theorem State.keyAt_of_lt {s : State} {b : Byte} (h : b.toNat < 16) : s.keyAt b = some (s.key ⟨b.toNat, h⟩) := by
  simp [State.keyAt, h]

theorem State.keyAt_of_ge {s : State} {b : Byte} (h : 16 ≤ b.toNat) : s.keyAt b = none := by
  simp [State.keyAt, Nat.not_lt.mpr h]

theorem mem_keyOrder (k : Fin 16) : k ∈ keyOrder := by revert k; decide

/-- No key is found exactly when none is pressed (R214). -/
theorem State.firstKey_eq_none {s : State} : s.firstKey = none ↔ ∀ k, s.key k = false := by
  simp [State.firstKey, List.find?_eq_none, mem_keyOrder]

/-- The key found is pressed and no lower one is (R214). -/
theorem State.firstKey_eq_some {s : State} {k : Fin 16} :
    s.firstKey = some k ↔ s.key k = true ∧ ∀ j, j < k → s.key j = false := by
  have e : keyOrder = List.finRange 16 := by decide
  rw [State.firstKey, e, List.finRange, List.find?_ofFn_eq_some]
  simp

/-- The countdown stops at zero (R240). -/
theorem countDown_toNat (t : Byte) : (countDown t).toNat = t.toNat - 1 := by
  unfold countDown
  split
  · simp [*]
  · rename_i h
    have : t.toNat ≠ 0 := fun h' => h (BitVec.eq_of_toNat_eq h')
    rw [BitVec.toNat_sub]
    have := t.isLt
    simp; omega

/-- `OFF_COLOR` differs from `ON_COLOR` (D29). -/
theorem offColor_ne_onColor : Config.offColor ≠ Config.onColor := by
  unfold Config.offColor; split <;> omega

/-- The font lies below 0x200 (D1). -/
theorem fontBase_fits : fontBase + 80 ≤ 0x200 := by
  have := Config.fontBaseChoice.isLt
  simp only [fontBase, Config.fontBase]; omega

theorem fontData_length : fontData.length = 80 := by decide

/-- A flag is 0 or 1 (R22). -/
theorem flagByte_cases (b : Bool) : flagByte b = 0 ∨ flagByte b = 1 := by cases b <;> simp [flagByte]

/-- The bytes of the fetched word are those at PC and after it (R54, R102). -/
@[simp] theorem State.highByte_fetchWord (s : State) : highByte s.fetchWord = s.byteAt s.pc.toNat :=
  highByte_wordOfBytes _ _
@[simp] theorem State.lowByte_fetchWord (s : State) : lowByte s.fetchWord = s.byteAt (s.pc.toNat + 1) :=
  lowByte_wordOfBytes _ _

/-- A store that leaves its bytes at I and every other byte alone is what the next fetch sees (R65). -/
theorem fetchesWhatWasStored {n : Nat} {b : Nat → Byte} {s t : State} (hpc : t.pc = s.pc + 2)
    (hs : ∀ k < n, t.byteAt (s.indexed k) = b k)
    (ho : ∀ a, (∀ k < n, a % 4096 ≠ s.indexed k % 4096) → t.byteAt a = s.byteAt a) : FetchesWhatWasStored n b s t := by
  have e : t.pc.toNat % 4096 = (s.pc.toNat + 2) % 4096 := by rw [hpc]; simp
  have e1 : (t.pc.toNat + 1) % 4096 = (s.pc.toNat + 3) % 4096 := by omega
  rw [FetchesWhatWasStored, State.highByte_fetchWord, State.lowByte_fetchWord, t.byteAt_congr e, t.byteAt_congr e1]
  exact ⟨hpc, fun k hk h => by rw [← t.byteAt_congr h, hs k hk], fun k hk h => by rw [← t.byteAt_congr h, hs k hk],
    fun h => ho _ fun k hk h' => h k hk h'.symm, fun h => ho _ fun k hk h' => h k hk h'.symm⟩

/-- A step of a faulted state is refused, whatever byte the host supplies (R101). -/
theorem serveStep_of_fault {s : State} {f : Fault} (h : s.fault = some f) (rnd : Byte) :
    serveStep rnd s = .refused (.sessionEnded f) := by
  simp [serveStep, State.stepWith, step, h]

end Sys2Proof.Machine
end

