-- ==== Sys2Proof/Tests/Slice0.lean ====
section
/-! SUPPORT. Tests of the model.  Expected results are the vectors of 95_test_vectors.md (L1, L2) or worked by hand from
the rule named; the last part gives a witness for the hypotheses of each statement that has some. -/

namespace Sys2Proof.Tests

open Sys2Proof Sys2Proof.Machine

/-! ## Helpers -/

/-- The state after reset with some V registers set. -/
def regs (l : List (Reg × Byte)) : State := l.foldl (fun s p => s.setReg p.1 p.2) State.reset

/-- A state with some pixels lit. -/
def lit (l : List (Fin 64 × Fin 32)) (s : State) : State := { s with fb := l.foldl (fun fb p => fb.flip p.1 p.2) s.fb }

/-- The pixels of a framebuffer that are lit, as its non-zero rows. -/
def rowsLit (fb : Framebuffer) : List (Nat × BitVec 64) :=
  (List.range 32).filterMap fun y => let row := fb.get (Fin.ofNat 32 y); if row = 0 then none else some (y, row)

/-- An outcome is a next state with a property. -/
def after (o : Outcome) (p : State → Bool) : Bool :=
  match o with
  | .next t => p t
  | _ => false

/-! ## Well-formedness: each check refuses an operand that does not fit -/

theorem test_x_refused : Fields.wf { x := some 16 } = false := by decide
theorem test_y_refused : Fields.wf { x := some 15, y := some 16 } = false := by decide
theorem test_n_refused : Fields.wf { x := some 15, y := some 15, n := some 16 } = false := by decide
theorem test_nn_refused : Fields.wf { x := some 15, nn := some 256 } = false := by decide
theorem test_nnn_refused : Fields.wf { nnn := some 4096 } = false := by decide
theorem test_largest_operands_fit :
    Fields.wf { x := some 15, y := some 15, n := some 15 } = true ∧ Fields.wf { x := some 15, nn := some 255 } = true ∧
      Fields.wf { nnn := some 4095 } = true := by decide

/-! ## Decoding: words written out from the patterns of R74 -/

theorem test_decode_family0 :
    decodeWord 0b0000000011100000 = .ok .cls ∧ decodeWord 0b0000000011101110 = .ok .ret := by decide
theorem test_decode_jumps :
    decodeWord 0b0001_1010_1011_1100 = .ok (.jp 0xABC) ∧ decodeWord 0b0010_1010_1011_1100 = .ok (.call 0xABC) ∧
      decodeWord 0b1011_0000_0000_0001 = .ok (.jpV0 0x001) := by decide
theorem test_decode_skips :
    decodeWord 0b0011_0011_0100_0010 = .ok (.seImm 3 0x42) ∧ decodeWord 0b0100_0011_0100_0010 = .ok (.sneImm 3 0x42) ∧
      decodeWord 0b0101_0001_0010_0000 = .ok (.seReg 1 2) ∧ decodeWord 0b1001_0001_0010_0000 = .ok (.sneReg 1 2) := by
  decide
theorem test_decode_immediates :
    decodeWord 0b0110_1010_0001_0010 = .ok (.ldImm 0xA 0x12) ∧ decodeWord 0b0111_0001_1111_1111 = .ok (.addImm 1 0xFF) ∧
      decodeWord 0b1100_0011_0000_1111 = .ok (.rnd 3 0x0F) ∧ decodeWord 0b1010_0001_0010_0011 = .ok (.ldI 0x123) := by
  decide
theorem test_decode_family8_low :
    decodeWord 0b1000_0001_0010_0000 = .ok (.ldReg 1 2) ∧ decodeWord 0b1000_0001_0010_0001 = .ok (.orReg 1 2) ∧
      decodeWord 0b1000_0001_0010_0010 = .ok (.andReg 1 2) ∧ decodeWord 0b1000_0001_0010_0011 = .ok (.xorReg 1 2) ∧
      decodeWord 0b1000_0001_0010_0100 = .ok (.addReg 1 2) := by decide
theorem test_decode_family8_high :
    decodeWord 0b1000_0001_0010_0101 = .ok (.sub 1 2) ∧ decodeWord 0b1000_0001_0010_0110 = .ok (.shr 1 2) ∧
      decodeWord 0b1000_0001_0010_0111 = .ok (.subn 1 2) ∧ decodeWord 0b1000_0001_0010_1110 = .ok (.shl 1 2) := by decide
theorem test_decode_draw_and_keys :
    decodeWord 0b1101_1010_1011_0101 = .ok (.drw 0xA 0xB 5) ∧ decodeWord 0b1110_0011_1001_1110 = .ok (.skp 3) ∧
      decodeWord 0b1110_0011_1010_0001 = .ok (.sknp 3) := by decide
theorem test_decode_familyF_timers :
    decodeWord 0b1111_0100_0000_0111 = .ok (.ldVxDt 4) ∧ decodeWord 0b1111_0011_0000_1010 = .ok (.ldVxK 3) ∧
      decodeWord 0b1111_0100_0001_0101 = .ok (.ldDtVx 4) ∧ decodeWord 0b1111_0100_0001_1000 = .ok (.ldStVx 4) := by decide
theorem test_decode_familyF_memory :
    decodeWord 0b1111_0101_0001_1110 = .ok (.addIVx 5) ∧ decodeWord 0b1111_0000_0010_1001 = .ok (.ldFVx 0) ∧
      decodeWord 0b1111_0000_0011_0011 = .ok (.ldBVx 0) ∧ decodeWord 0b1111_0010_0101_0101 = .ok (.ldMemVx 2) ∧
      decodeWord 0b1111_1111_0110_0101 = .ok (.ldVxMem 0xF) := by decide
/-- L2-6, L2-1 and L2-2: words of every unsupported group of R75. -/
theorem test_unsupported_words :
    ([0x0000, 0x0123, 0x00E1, 0x01E0, 0x5121, 0x9AB3, 0x8008, 0x800F, 0xE000, 0xF000, 0xF075, 0xFFFF] : List Word).all
      (fun w => decide (decodeWord w = .error (.unsupportedOpcode w))) = true := by decide
theorem test_truncated_bytes : decodeBytes [0x00] = .error .truncated := by decide
theorem test_table_word : decodeTableWord 16 0x8125 = some (.sub 1 2) ∧ decodeTableWord 16 0x8128 = none := by decide

/-! ## The step -/

/-- L2-6: a fetch at 0xFFF takes its low byte from 0x000. -/
theorem test_fetch_wraps :
    after (step { (State.reset.setByte 0xFFF 0x6A).setByte 0x000 0x12 with pc := 0x0FFF })
      (fun t => t.reg 0xA == 0x12 && t.pc == 0x1001) = true := by decide
/-- L2-6: PC wraps from 0xFFFE to 0x0000. -/
theorem test_pc_wraps :
    after (step { (State.reset.setByte 0xFFE 0x6A).setByte 0xFFF 0x12 with pc := 0xFFFE })
      (fun t => t.reg 0xA == 0x12 && t.pc == 0x0000) = true := by decide
/-- L2-6: an unsupported word changes nothing but the latch, and a STEP after it is refused. -/
theorem test_unsupported_then_refused :
    after (step State.reset) (fun t => t == { State.reset with fault := some .unsupportedOpcode }) = true ∧
      step { State.reset with fault := some .unsupportedOpcode } = .refused (.sessionEnded .unsupportedOpcode) :=
  ⟨by decide, rfl⟩
theorem test_with_fetch_word :
    after (step (State.reset.withFetchWord 16 0x6105)) (fun t => t.reg 1 == 0x05 && t.pc == 0x202) = true := by decide

/-! ## Control flow (L2-1) -/

theorem test_jp_odd : after (exec (.jp 0xFFF) State.reset) (fun t => t.pc == 0x0FFF) = true := by decide
theorem test_call : after (exec (.call 0xABC) State.reset) (fun t => t.stack == [0x202] && t.pc == 0x0ABC) = true := by
  decide
theorem test_call_pc_wraps :
    after (exec (.call 0xABC) { State.reset with pc := 0xFFFE }) (fun t => t.stack == [0x0000]) = true := by decide
theorem test_ret :
    after (exec .ret { State.reset with pc := 0x212, stack := [0x206] }) (fun t => t.pc == 0x206 && t.stack == []) = true := by
  decide
theorem test_ret_underflow :
    after (exec .ret State.reset) (fun t => t.fault == some .stackUnderflow && t.pc == 0x200) = true := by decide
theorem test_se_imm :
    after (exec (.seImm 3 0x42) (regs [(3, 0x42)])) (fun t => t.pc == 0x204) = true ∧
      after (exec (.seImm 3 0x43) (regs [(3, 0x42)])) (fun t => t.pc == 0x202) = true := by decide
theorem test_sne_imm :
    after (exec (.sneImm 3 0x42) (regs [(3, 0x42)])) (fun t => t.pc == 0x202) = true ∧
      after (exec (.sneImm 3 0x43) (regs [(3, 0x42)])) (fun t => t.pc == 0x204) = true := by decide
theorem test_se_reg :
    after (exec (.seReg 1 2) (regs [(1, 7), (2, 7)])) (fun t => t.pc == 0x204) = true ∧
      after (exec (.seReg 1 2) (regs [(1, 7), (2, 8)])) (fun t => t.pc == 0x202) = true := by decide
theorem test_sne_reg :
    after (exec (.sneReg 1 2) (regs [(1, 7), (2, 8)])) (fun t => t.pc == 0x204) = true ∧
      after (exec (.sneReg 1 1) State.reset) (fun t => t.pc == 0x202) = true := by decide
theorem test_jp_v0 : after (exec (.jpV0 0xFFF) (regs [(0, 0xFF)])) (fun t => t.pc == 0x10FE) = true := by decide

/-! ## Arithmetic and logic (L1-1, L1-2, L2-2) -/

theorem test_ld_imm_vf : after (exec (.ldImm 0xF 0x07) (regs [(VF, 1)])) (fun t => t.reg VF == 0x07) = true := by decide
theorem test_add_imm_keeps_vf :
    after (exec (.addImm 1 0xFF) (regs [(1, 0x05), (VF, 0x09)])) (fun t => t.reg 1 == 0x04 && t.reg VF == 0x09) = true := by
  decide
theorem test_ld_reg : after (exec (.ldReg 1 2) (regs [(1, 0x11), (2, 0x22)])) (fun t => t.reg 1 == 0x22) = true := by decide
theorem test_or_keeps_vf :
    after (exec (.orReg 1 2) (regs [(1, 0xF0), (2, 0x0F), (VF, 0x77)])) (fun t => t.reg 1 == 0xFF && t.reg VF == 0x77) = true := by
  decide
theorem test_and : after (exec (.andReg 1 2) (regs [(1, 0xF0), (2, 0x3C)])) (fun t => t.reg 1 == 0x30) = true := by decide
theorem test_xor : after (exec (.xorReg 1 2) (regs [(1, 0xF0), (2, 0x3C)])) (fun t => t.reg 1 == 0xCC) = true := by decide
theorem test_add_carry :
    after (exec (.addReg 0 1) (regs [(0, 0xFF), (1, 0x01)])) (fun t => t.reg 0 == 0x00 && t.reg VF == 1) = true := by decide
theorem test_add_into_vf :
    after (exec (.addReg 0xF 1) (regs [(VF, 0xFF), (1, 0x01)])) (fun t => t.reg VF == 1) = true := by decide
theorem test_sub_equal_and_borrow :
    after (exec (.sub 1 2) (regs [(1, 0x10), (2, 0x10)])) (fun t => t.reg 1 == 0x00 && t.reg VF == 1) = true ∧
      after (exec (.sub 1 2) (regs [(1, 0x00), (2, 0x01)])) (fun t => t.reg 1 == 0xFF && t.reg VF == 0) = true := by decide
theorem test_sub_into_vf : after (exec (.sub 0xF 2) (regs [(VF, 5), (2, 7)])) (fun t => t.reg VF == 0) = true := by decide
theorem test_shr_reads_vy :
    after (exec (.shr 1 2) (regs [(1, 0xAA), (2, 0x05)])) (fun t => t.reg 1 == 0x02 && t.reg 2 == 0x05 && t.reg VF == 1) = true := by
  decide
theorem test_subn :
    after (exec (.subn 1 2) (regs [(1, 0x01), (2, 0x10)])) (fun t => t.reg 1 == 0x0F && t.reg VF == 1) = true ∧
      after (exec (.subn 1 2) (regs [(1, 0x02), (2, 0x01)])) (fun t => t.reg 1 == 0xFF && t.reg VF == 0) = true := by decide
theorem test_shl_reads_vy :
    after (exec (.shl 1 2) (regs [(1, 0xFF), (2, 0x40)])) (fun t => t.reg 1 == 0x80 && t.reg 2 == 0x40 && t.reg VF == 0) = true := by
  decide
theorem test_rnd :
    after (exec (.rnd 3 0x0F) { State.reset with randomIn := [0xB7, 0x01] })
      (fun t => t.reg 3 == 0x07 && t.randomIn == [0x01] && t.draws == 0) = true := by decide

/-! ## Index and memory (L2-3) -/

theorem test_ld_i : after (exec (.ldI 0x123) State.reset) (fun t => t.i == 0x0123) = true := by decide
theorem test_add_i_boundary :
    after (exec (.addIVx 5) { regs [(5, 0x01)] with i := 0x0FFE }) (fun t => t.i == 0x0FFF && t.reg VF == 0) = true ∧
      after (exec (.addIVx 5) { regs [(5, 0x01)] with i := 0x0FFF }) (fun t => t.i == 0x1000 && t.reg VF == 1) = true := by
  decide
theorem test_add_i_wraps :
    after (exec (.addIVx 5) { regs [(5, 0x02)] with i := 0xFFFF }) (fun t => t.i == 0x0001 && t.reg VF == 1) = true := by
  decide
theorem test_ld_f :
    exec (.ldFVx 0) (regs [(0, 0xFF)]) = .next ((regs [(0, 0xFF)]).setI (BitVec.ofNat 16 (fontBase + 1275))).advance := rfl
theorem test_bcd_wraps :
    after (exec (.ldBVx 0) { regs [(0, 255)] with i := 0xFFE })
      (fun t => t.mem == [(0x000, 5), (0xFFE, 2), (0xFFF, 5)] && t.i == 0xFFE) = true := by decide
theorem test_bcd_digits :
    after (exec (.ldBVx 0) { regs [(0, 254)] with i := 0x300 })
      (fun t => t.byteAt 0x300 == 2 && t.byteAt 0x301 == 5 && t.byteAt 0x302 == 4) = true := by decide
theorem test_store_wraps :
    after (exec (.ldMemVx 2) { regs [(0, 1), (1, 2), (2, 3)] with i := 0xFFF })
      (fun t => t.mem == [(0x000, 2), (0x001, 3), (0xFFF, 1)] && t.i == 0xFFF) = true := by decide
theorem test_store_only_v0 :
    after (exec (.ldMemVx 0) { regs [(0, 0xAB), (1, 0xCD)] with i := 0x300 }) (fun t => t.mem == [(0x300, 0xAB)]) = true := by
  decide
theorem test_load_to_vf :
    after (exec (.ldVxMem 0xF) { (State.reset.setByte 0x300 0x10).setByte 0x30F 0x1F with i := 0x300 })
      (fun t => t.reg 0 == 0x10 && t.reg 1 == 0x00 && t.reg VF == 0x1F && t.i == 0x300) = true := by decide

/-! ## Display (L1-5, L2-4) -/

theorem test_cls : after (exec .cls (lit [(3, 0), (63, 31)] (regs [(VF, 5)])))
    (fun t => rowsLit t.fb == [] && t.reg VF == 5) = true := by decide
/-- L1-5 under Clip: columns 60–63 of rows 30 and 31. -/
theorem test_draw_clips :
    after (exec (.drw 0 1 4) { State.setBytes 0x300 [0xFF, 0xFF, 0xFF, 0xFF] (regs [(0, 60), (1, 30)]) with i := 0x300 })
      (fun t => rowsLit t.fb == [(30, 0xF), (31, 0xF)] && t.reg VF == 0 && t.pc == 0x202) = true := by decide +kernel
/-- L1-5 under Wrap: columns 60–63 and 0–3 of rows 30, 31, 0 and 1. -/
theorem test_sprite_wraps :
    rowsLit ({ State.setBytes 0x300 [0xFF, 0xFF, 0xFF, 0xFF] State.reset with i := 0x300 }.drawSprite .wrap 60 30 4).fb =
      [(0, 0xF00000000000000F), (1, 0xF00000000000000F), (30, 0xF00000000000000F), (31, 0xF00000000000000F)] := by
  decide +kernel
/-- L2-4: the coordinates are read from VF before VF is written. -/
theorem test_draw_coordinates_from_vf :
    after (exec (.drw 0xF 0xF 1) (lit [(63, 30)] { (regs [(VF, 0x3E)]).setByte 0x300 0xFF with i := 0x300 }))
      (fun t => rowsLit t.fb == [(30, 2)] && t.reg VF == 1) = true := by decide +kernel

/-! ## Keys and timers (L2-5) -/

theorem test_skp :
    after (exec (.skp 3) ((regs [(3, 7)]).setKey 7 true)) (fun t => t.pc == 0x204) = true ∧
      after (exec (.skp 3) (regs [(3, 7)])) (fun t => t.pc == 0x202) = true := by decide
theorem test_skp_out_of_range :
    after (exec (.skp 3) (regs [(3, 0x10)])) (fun t => t == { regs [(3, 0x10)] with fault := some .keyIndexOutOfRange }) = true := by
  decide
theorem test_sknp :
    after (exec (.sknp 3) ((regs [(3, 7)]).setKey 7 true)) (fun t => t.pc == 0x202) = true ∧
      after (exec (.sknp 3) (regs [(3, 7)])) (fun t => t.pc == 0x204) = true := by decide
theorem test_sknp_out_of_range :
    after (exec (.sknp 3) ((regs [(3, 0xFF)]).setKey 0 true)) (fun t => t.fault == some .keyIndexOutOfRange) = true := by decide
theorem test_key_lowest :
    after (exec (.ldVxK 3) ((State.reset.setKey 9 true).setKey 5 true)) (fun t => t.reg 3 == 5 && t.pc == 0x202) = true := by
  decide
theorem test_key_wait : after (exec (.ldVxK 3) State.reset) (fun t => t == State.reset) = true := by decide
theorem test_read_dt : after (exec (.ldVxDt 4) { State.reset with dt := 0x2A }) (fun t => t.reg 4 == 0x2A) = true := by decide
theorem test_set_dt : after (exec (.ldDtVx 4) (regs [(4, 0x2A)])) (fun t => t.dt == 0x2A && t.st == 0) = true := by decide
theorem test_set_st : after (exec (.ldStVx 4) (regs [(4, 0x05)])) (fun t => t.st == 0x05 && t.dt == 0) = true := by decide

/-! ## Ports (L2-5, L2-7) -/

theorem test_tick_clamps : { State.reset with dt := 0, st := 255 }.tick = { State.reset with dt := 0, st := 254 } := by decide
/-- TICK is admitted while the latch is set. -/
theorem test_tick_when_faulted :
    serve .tick (some { State.reset with dt := 3, fault := some .stackOverflow }) =
      .served (some { State.reset with dt := 2, fault := some .stackOverflow }) .done := by decide
theorem test_step_port_status :
    serve (.step 0) (some State.reset) =
      .served (some { State.reset with fault := some .unsupportedOpcode }) (.status (.error .unsupportedOpcode)) := by decide
theorem test_load_rom : (State.reset.load [0x61, 0x05]).byteAt 0x201 = 0x05 := by
  rw [State.load, State.byteAt_setBytes (State.mem_wf_setBytes Memory.wf_nil _ _) (by decide) (by decide)]; rfl
theorem test_font_glyph_5 : (fontData.drop 25).take 5 = [0xF0, 0x80, 0xF0, 0x10, 0xF0] := by decide

/-! ## Witnesses: the hypotheses of each statement can be met -/

/-- Registers, memory canonical, one return address, an instruction at PC. -/
def sample (w : Word) : State := { (regs [(1, 7), (2, 9)]).placeWord w with stack := [0x206] }

theorem witness_OnlyInitIsServedBeforeInit : Request.tick ≠ .init := by decide
theorem witness_StepKeepsTheInvariant : ∃ t, (sample 0x8124).Inv ∧ step (sample 0x8124) = .next t :=
  ⟨_, by decide, rfl⟩
theorem witness_PortsKeepTheInvariant :
    ∃ t r, (sample 0x8124).Inv ∧ serveState (.step 3) (sample 0x8124) = .served (some t) r := ⟨_, _, by decide, rfl⟩
theorem witness_ReachableStatesMeetTheInvariant : Reachable State.reset.tick := .port .reset (q := .tick) rfl
theorem witness_CanonicalMemoriesThatReadAlikeAreEqual :
    Memory.wf [(1, 2), (5, 3)] ∧ ∀ a, Memory.read [(1, 2), (5, 3)] a = Memory.read [(1, 2), (5, 3)] a :=
  ⟨by decide, fun _ => rfl⟩
theorem witness_EncodeOfDecodeIsTheWord : decodeWord 0x8124 = .ok (.addReg 1 2) := by decide
theorem witness_DecoderFollowsTheOpcodeTable :
    ⟨"ADD_REG", 0xF00F, 0x8004⟩ ∈ opcodeRows ∧ OpcodeRow.accepts ⟨"ADD_REG", 0xF00F, 0x8004⟩ 0x8124 = true := by decide
theorem witness_ExactlyTheListedWordsAreUnsupported : (sample 0x8128).fault = none ∧ UnsupportedWord (sample 0x8128).fetchWord :=
  ⟨rfl, .inr (.inr (.inl (by decide)))⟩
theorem witness_StepRunsTheDecodedInstruction :
    (sample 0x8124).fault = none ∧ decodeWord (sample 0x8124).fetchWord = .ok (.addReg 1 2) := by decide
theorem witness_PlacedInstructionRuns : State.reset.Inv ∧ State.reset.fault = none := by decide
theorem witness_StepIsAdmitted : (sample 0x8124).fault = none ∧ { sample 0 with fault := some .stackOverflow }.fault = some .stackOverflow := by
  decide
/-- A faulted block that a TICK is served on, and a port that is neither INIT nor STEP. -/
theorem witness_OnlyInitClearsTheLatch :
    (∃ t, { sample 0 with fault := some .stackOverflow }.fault = some .stackOverflow ∧
      serve .tick (some { sample 0 with fault := some .stackOverflow }) = .served (some t) .done) ∧
    Request.tick ≠ .init ∧ ∀ rnd, Request.tick ≠ .step rnd := ⟨⟨_, rfl, rfl⟩, by decide, fun _ h => by cases h⟩
theorem witness_ErrorChangesOnlyTheLatch : ∃ t, step State.reset = .next t ∧ t.fault = some .unsupportedOpcode := ⟨_, rfl, rfl⟩
/-- Each error of ErrorsHaveExactlyTheirCauses is raised: the depth and key bounds at 16. -/
theorem witness_ErrorsHaveExactlyTheirCauses :
    after (step (State.reset.placeWord 0x0123)) (fun t => t.fault == some .unsupportedOpcode) = true ∧
      after (step (State.reset.placeWord 0x00EE)) (fun t => t.fault == some .stackUnderflow) = true ∧
      after (step { State.reset.placeWord 0x2300 with stack := List.replicate 16 0x202 })
        (fun t => t.fault == some .stackOverflow) = true ∧
      after (step ((State.reset.setReg 3 16).placeWord 0xE39E)) (fun t => t.fault == some .keyIndexOutOfRange) = true := by
  decide
theorem witness_PcAfterEveryStep_success :
    ∃ t, decodeWord (sample 0x3107).fetchWord = .ok (.seImm 1 7) ∧ step (sample 0x3107) = .next t ∧ t.fault = none :=
  ⟨_, by decide, rfl, rfl⟩
theorem witness_PcAfterEveryStep_error : ∃ t, step State.reset = .next t ∧ t.fault ≠ none := ⟨_, rfl, by decide⟩
theorem witness_PartsAreWrittenOnlyByTheirInstructions :
    ∃ t, exec (.ldMemVx 3) (sample 0) = .next t ∧ Part.writtenBy .i (.ldMemVx 3) = false := ⟨_, rfl, by decide⟩
theorem witness_RegistersChangeOnlyAsDestinationOrFlag :
    ∃ t, exec (.addReg 1 2) (sample 0) = .next t ∧ Instr.isDest 2 (.addReg 1 2) = false ∧ (2 : Reg) ≠ VF ∧
      Instr.writesFlag (.addReg 1 2) = true := ⟨_, rfl, by decide, by decide, by decide⟩
theorem witness_KeysMatterOnlyToKeyInstructions : ∃ t, Instr.readsKeys (.addReg 1 2) = false ∧ exec (.addReg 1 2) (sample 0) = .next t :=
  ⟨_, rfl, rfl⟩
theorem witness_NoInstructionReadsTheSoundTimer : ∃ t, exec (.ldStVx 1) (sample 0) = .next t := ⟨_, rfl⟩
theorem witness_ReturnPopsTheStack : (sample 0).stack = [0x206] ∧ State.reset.stack = [] := by decide
theorem witness_CallPushesTheReturnAddress :
    { State.reset with stack := List.replicate 15 0x202 }.stack.length < 16 ∧
      { State.reset with stack := List.replicate 16 0x202 }.stack.length = 16 := by decide
theorem witness_CallThenReturnComesBack : (sample 0).stack.length < 16 := by decide
theorem witness_AddSetsTheCarry_bounds : (1 : Reg) ≠ VF ∧ carryFlag 0xFE 0x01 = 0 ∧ carryFlag 0xFF 0x01 = 1 := by decide
theorem witness_SubtractionsSetTheNotBorrow_bounds : notBorrowFlag 5 5 = 1 ∧ notBorrowFlag 4 5 = 0 := by decide
theorem witness_RandomByteIsMasked :
    { State.reset with randomIn := [0xB7] }.randomIn = 0xB7 :: [] ∧ State.reset.randomIn = [] := by decide
theorem witness_StepPortSuppliesTheDraw :
    (sample 0xC30F).fault = none ∧ decodeWord (sample 0xC30F).fetchWord = .ok (.rnd 3 0x0F) ∧
      ∀ x nn, decodeWord (sample 0x8124).fetchWord ≠ .ok (.rnd x nn) :=
  ⟨rfl, by decide, fun x nn h => by rw [witness_StepRunsTheDecodedInstruction.2] at h; cases h⟩
theorem witness_memory_instructions : (sample 0xF333).Inv ∧ (2 : Reg) ≤ 3 ∧ 0x400 % 4096 ≠ (sample 0).indexed 2 % 4096 := by decide
/-- A store whose first byte reaches the next word, one that only its last byte reaches, and one that misses it. -/
theorem witness_StoredCodeIsFetchedNext :
    (∃ t, { sample 0 with i := 0x202 }.Inv ∧ exec (.ldMemVx 1) { sample 0 with i := 0x202 } = .next t ∧
      { sample 0 with i := 0x202 }.indexed 0 % 4096 = ({ sample 0 with i := 0x202 }.pc.toNat + 2) % 4096 ∧
      { sample 0 with i := 0x202 }.indexed 1 % 4096 = ({ sample 0 with i := 0x202 }.pc.toNat + 3) % 4096) ∧
    (∃ t, { sample 0 with i := 0x200 }.Inv ∧ exec (.ldBVx 1) { sample 0 with i := 0x200 } = .next t ∧
      { sample 0 with i := 0x200 }.indexed 2 % 4096 = ({ sample 0 with i := 0x200 }.pc.toNat + 2) % 4096 ∧
      ∀ k < 3, { sample 0 with i := 0x200 }.indexed k % 4096 ≠ ({ sample 0 with i := 0x200 }.pc.toNat + 3) % 4096) ∧
    (∃ t, (sample 0).Inv ∧ exec (.ldMemVx 15) (sample 0) = .next t ∧
      ∀ k < 16, (sample 0).indexed k % 4096 ≠ ((sample 0).pc.toNat + 2) % 4096) :=
  ⟨⟨_, by decide, rfl, by decide, by decide⟩, ⟨_, by decide, rfl, by decide, by decide⟩, ⟨_, by decide, rfl, by decide⟩⟩
/-- A covered lit pixel, a sprite that covers nothing lit, and a second draw at the same place. -/
theorem witness_draws :
    SpriteCovers .clip (State.reset.setByte 0 0x80) 63 31 1 63 31 ∧
      (∀ px py, SpriteCovers .clip State.reset 0 0 0 px py → State.reset.fb.pixel px py = false) ∧
      ∃ t, exec (.drw 1 2 15) (sample 0) = .next t ∧ (t.reg 1).toNat % 64 = ((sample 0).reg 1).toNat % 64 ∧
        (t.reg 2).toNat % 32 = ((sample 0).reg 2).toNat % 32 :=
  ⟨⟨0, 0, by decide⟩, fun px py _ => Framebuffer.pixel_dark px py, _, rfl, by decide +kernel, by decide +kernel⟩
/-- The key bound: 15 names a key, 16 does not. -/
theorem witness_KeySkipsReadTheirKey :
    ((regs [(3, 15)]).reg 3).toNat = (15 : Fin 16).val ∧ 16 ≤ ((regs [(3, 16)]).reg 3).toNat := by decide
theorem witness_KeyWaitTakesTheLowestKey :
    (State.reset.setKey 5 true).key 5 = true ∧ (∀ j, j < 5 → (State.reset.setKey 5 true).key j = false) ∧
      ∀ k, State.reset.key k = false := by decide
theorem witness_DelayTimerAfterTicks : ∃ a, exec (.ldDtVx 1) (sample 0) = .next a := ⟨_, rfl⟩
/-- The bounds of LOAD's clauses: the first and last ROM byte, the first and last font byte, a byte just past the font. -/
theorem witness_LoadPlacesFontAndRom :
    (sample 0).Inv ∧ (0x200 ≤ 0xFFF ∧ 0xFFF - 0x200 < min 4000 3584) ∧ 0x200 - 0x200 < min 1 3584 ∧
      (∀ a, a = fontBase ∨ a = fontBase + 79 → a < 4096 ∧ ¬0x200 ≤ a ∧ fontBase ≤ a ∧ a < fontBase + 80) ∧
      (fontBase + 80 < 4096 ∧ ¬fontBase + 80 < fontBase + 80 ∧ ¬fontBase + 80 - 0x200 < min 0 3584) := by
  have h : fontBase < 433 := Config.fontBaseChoice.isLt
  exact ⟨by decide, by decide, by decide, fun a ha => by omega, by omega⟩
theorem witness_KeyAndSoundPorts :
    serve .tick (some State.reset) = .served (some State.reset.tick) .done ∧ Request.tick ≠ .init ∧
      ∀ k pressed, Request.tick ≠ .setKey k pressed := ⟨rfl, by decide, fun _ _ h => by cases h⟩

end Sys2Proof.Tests
end

section
/-! The state (10_state.md): what an instruction can do to it, said once, and from that the invariant, the frames, the
inputs no instruction reads, and the fault latch. -/

namespace Sys2Proof.Machine

/-! ### What an instruction can do to the state -/

/-- The shapes of an instruction's next state.  Each shape names what it writes, and its premises say that the
instruction is one R20, R22 or R246 lets write that. -/
inductive Effect (i : Instr) (s : State) : State → Prop
  | waits (hi : i.readsKeys = true) : Effect i s s
  | fails (f : Fault) (hi : Part.fault.writtenBy i = true) : Effect i s { s with fault := some f }
  | skips (taken : Bool) : Effect i s (s.skipIf taken)
  | jumps (a : Word) : Effect i s (s.jumpTo a)
  | calls (a b : Word) (hi : Part.stack.writtenBy i = true) (hroom : s.stack.length < Config.stackDepth) :
    Effect i s ((s.push a).jumpTo b)
  | returns (a : Word) (hi : Part.stack.writtenBy i = true) : Effect i s (s.dropTop.jumpTo a)
  | setsReg (x : Reg) (b : Byte) (hx : i.isDest x = true) : Effect i s (s.setReg x b).advance
  | setsRegAndFlag (x : Reg) (b f : Byte) (hx : i.isDest x = true) (hf : i.writesFlag = true) :
    Effect i s (s.setRegThenFlag x b f).advance
  | drawsByte (x : Reg) (b : Byte) (hi : Part.random.writtenBy i = true) (hx : i.isDest x = true) :
    Effect i s (s.consumeRandom.setReg x b).advance
  | loads (n : Nat) (hn : n ≤ 16) (hx : ∀ r : Reg, r.val < n → i.isDest r = true) : Effect i s (s.loadRegs n).advance
  | setsI (a : Word) (hi : Part.i.writtenBy i = true) : Effect i s (s.setI a).advance
  | setsIAndFlag (a : Word) (f : Byte) (hi : Part.i.writtenBy i = true) (hf : i.writesFlag = true) :
    Effect i s ((s.setI a).setReg VF f).advance
  | setsDt (b : Byte) (hi : Part.dt.writtenBy i = true) : Effect i s (s.setDt b).advance
  | setsSt (b : Byte) (hi : Part.st.writtenBy i = true) : Effect i s (s.setSt b).advance
  | stores (m : Memory) (hi : Part.mem.writtenBy i = true) (hwf : s.mem.wf → m.wf) :
    Effect i s { s with mem := m }.advance
  | clears (fb : Framebuffer) (hi : Part.fb.writtenBy i = true) : Effect i s (s.setFb fb).advance
  | drawsSprite (c : Canvas) (hi : Part.fb.writtenBy i = true) (hf : i.writesFlag = true) :
    Effect i s (s.afterDraw c).advance

/-- A register store changes memory alone. -/
theorem State.storeRegs_eq (s : State) (n : Nat) : s.storeRegs n = { s with mem := (s.storeRegs n).mem } := by
  induction n with
  | zero => rfl
  | succ n ih => rw [State.storeRegs, ih]; rfl

theorem execRet_effect (s : State) : ∃ t, execRet s = .next t ∧ Effect .ret s t := by
  unfold execRet
  split
  · exact ⟨_, rfl, .fails _ rfl⟩
  · exact ⟨_, rfl, .returns _ rfl⟩

theorem execCall_effect (nnn : Addr) (s : State) : ∃ t, execCall nnn s = .next t ∧ Effect (.call nnn) s t := by
  unfold execCall
  split
  · exact ⟨_, rfl, .fails _ rfl⟩
  · next hroom => exact ⟨_, rfl, .calls _ _ rfl (Nat.lt_of_not_le hroom)⟩

/-- EX9E and EXA1 when VX names no key (R212). -/
theorem execKeySkips_of_none {x : Reg} {s : State} (hk : s.keyAt (s.reg x) = none) :
    execSkp x s = raise .keyIndexOutOfRange s ∧ execSknp x s = raise .keyIndexOutOfRange s := by
  simp [execSkp, execSknp, hk]

/-- EX9E and EXA1 when VX names a key (R210, R211). -/
theorem execKeySkips_of_some {x : Reg} {s : State} {pressed : Bool} (hk : s.keyAt (s.reg x) = some pressed) :
    execSkp x s = .next (s.skipIf pressed) ∧ execSknp x s = .next (s.skipIf (!pressed)) := by
  simp [execSkp, execSknp, hk]

theorem execKeySkips_effect (x : Reg) (s : State) :
    (∃ t, execSkp x s = .next t ∧ Effect (.skp x) s t) ∧ (∃ t, execSknp x s = .next t ∧ Effect (.sknp x) s t) := by
  cases hk : s.keyAt (s.reg x) with
  | none =>
    obtain ⟨hskp, hsknp⟩ := execKeySkips_of_none hk
    exact ⟨⟨_, hskp, .fails _ rfl⟩, _, hsknp, .fails _ rfl⟩
  | some pressed =>
    obtain ⟨hskp, hsknp⟩ := execKeySkips_of_some hk
    exact ⟨⟨_, hskp, .skips _⟩, _, hsknp, .skips _⟩

theorem execLdVxK_effect (x : Reg) (s : State) : ∃ t, execLdVxK x s = .next t ∧ Effect (.ldVxK x) s t := by
  unfold execLdVxK
  split
  · exact ⟨_, rfl, .setsReg x _ (beq_self_eq_true x)⟩
  · exact ⟨_, rfl, .waits rfl⟩

theorem execLdBVx_effect (x : Reg) (s : State) : ∃ t, execLdBVx x s = .next t ∧ Effect (.ldBVx x) s t :=
  ⟨_, rfl, .stores _ rfl fun hm => Memory.wf_write (Memory.wf_write (Memory.wf_write hm _ _) _ _) _ _⟩

theorem execLdMemVx_effect (x : Reg) (s : State) : ∃ t, execLdMemVx x s = .next t ∧ Effect (.ldMemVx x) s t := by
  rw [execLdMemVx, s.storeRegs_eq]
  exact ⟨_, rfl, .stores _ rfl fun hm => State.mem_wf_storeRegs hm _⟩

theorem execLdVxMem_effect (x : Reg) (s : State) : ∃ t, execLdVxMem x s = .next t ∧ Effect (.ldVxMem x) s t :=
  ⟨_, rfl, .loads _ x.isLt fun _ hr => decide_eq_true (Nat.le_of_lt_succ hr)⟩

/-- Every instruction answers a next state, of one of the shapes of `Effect`. -/
theorem exec_effect (i : Instr) (s : State) : ∃ t, exec i s = .next t ∧ Effect i s t :=
  match i with
  | .cls => ⟨_, rfl, .clears _ rfl⟩
  | .ret => execRet_effect s
  | .jp _ | .jpV0 _ => ⟨_, rfl, .jumps _⟩
  | .call nnn => execCall_effect nnn s
  | .seImm _ _ | .sneImm _ _ | .seReg _ _ | .sneReg _ _ => ⟨_, rfl, .skips _⟩
  | .ldImm x _ | .addImm x _ | .ldReg x _ | .orReg x _ | .andReg x _ | .xorReg x _ | .ldVxDt x =>
    ⟨_, rfl, .setsReg x _ (beq_self_eq_true x)⟩
  | .addReg x _ | .sub x _ | .shr x _ | .subn x _ | .shl x _ =>
    ⟨_, rfl, .setsRegAndFlag x _ _ (beq_self_eq_true x) rfl⟩
  | .ldI _ | .ldFVx _ => ⟨_, rfl, .setsI _ rfl⟩
  | .addIVx _ => ⟨_, rfl, .setsIAndFlag _ _ rfl rfl⟩
  | .rnd x _ => ⟨_, rfl, .drawsByte x _ rfl (beq_self_eq_true x)⟩
  | .drw _ _ _ => ⟨_, rfl, .drawsSprite _ rfl rfl⟩
  | .skp x => (execKeySkips_effect x s).1
  | .sknp x => (execKeySkips_effect x s).2
  | .ldVxK x => execLdVxK_effect x s
  | .ldDtVx _ => ⟨_, rfl, .setsDt _ rfl⟩
  | .ldStVx _ => ⟨_, rfl, .setsSt _ rfl⟩
  | .ldBVx x => execLdBVx_effect x s
  | .ldMemVx x => execLdMemVx_effect x s
  | .ldVxMem x => execLdVxMem_effect x s

/-- All that an instruction's next state can be. -/
theorem effect_of_exec {i : Instr} {s t : State} (h : exec i s = .next t) : Effect i s t := by
  obtain ⟨u, hu, he⟩ := exec_effect i s
  cases hu.symm.trans h
  exact he

/-! ### The invariant -/

/-- An instruction keeps the invariant. -/
theorem Effect.inv {i : Instr} {s t : State} (h : Effect i s t) (hs : s.Inv) : t.Inv := by
  obtain ⟨hmem, hdepth⟩ := hs
  cases h with
  | calls a b hi hroom => exact ⟨hmem, hroom⟩
  | returns a hi => exact ⟨hmem, by simp; omega⟩
  | stores m hi hwf => exact ⟨hwf hmem, hdepth⟩
  | drawsByte | loads => exact ⟨by simpa using hmem, by simpa using hdepth⟩
  | _ => exact ⟨hmem, hdepth⟩

/-- Settles O4: the instruction's effect keeps the invariant, and an unsupported word changes the latch alone. -/
theorem stepKeepsTheInvariant : Obligations.StepKeepsTheInvariant := by
  intro s t hs h
  obtain ⟨-, ⟨i, -, hexec⟩ | ⟨e, -, rfl⟩⟩ := step_cases h
  · exact (effect_of_exec hexec).inv hs
  · exact hs

/-- Settles O3: the empty memory is canonical and the empty stack has no entry. -/
theorem resetMeetsTheInvariant : Obligations.ResetMeetsTheInvariant :=
  ⟨Memory.wf_nil, Nat.zero_le 16⟩

/-- A STEP never stops with a fault: an error is a next state with the latch set. -/
theorem step_ne_fault (s : State) (f : Fault) : step s ≠ .fault f := by
  unfold step
  split
  · nofun
  · split
    · next i _ =>
      obtain ⟨t, ht, -⟩ := exec_effect i s
      simp [ht]
    · nofun

/-- All that the STEP port can leave: the state after a STEP that draws the host's byte, the queue put back. -/
theorem serveStep_cases {rnd : Byte} {s t : State} {r : Reply} (h : serveStep rnd s = .served (some t) r) :
    ∃ u, step { s with randomIn := [rnd] } = .next u ∧ t = { u with randomIn := s.randomIn } := by
  unfold serveStep State.stepWith at h
  cases hstep : step { s with randomIn := [rnd] } with
  | next u =>
    simp only [hstep, Answer.served.injEq, Option.some.injEq] at h
    exact ⟨u, rfl, h.1.symm⟩
  | fault f => exact absurd hstep (step_ne_fault _ f)
  | refused r' => simp [hstep] at h

/-- Settles O5: LOAD by its stores, STEP by O4, INIT as O3; the other ports write neither memory nor stack. -/
theorem portsKeepTheInvariant : Obligations.PortsKeepTheInvariant := by
  intro q s t r hs h
  cases q with
  | init => cases h; exact resetMeetsTheInvariant
  | load rom => cases h; exact ⟨State.mem_wf_load hs.1 rom, by simpa using hs.2⟩
  | step rnd =>
    obtain ⟨u, hu, rfl⟩ := serveStep_cases h
    exact stepKeepsTheInvariant { s with randomIn := [rnd] } u hs hu
  | tick | render | setKey k pressed | readSt => cases h; exact hs

/-- Settles O6, by induction on the requests that reach the state. -/
theorem reachableStatesMeetTheInvariant : Obligations.ReachableStatesMeetTheInvariant := by
  intro s hs
  induction hs with
  | reset => exact resetMeetsTheInvariant
  | port _ hserve ih => exact portsKeepTheInvariant _ _ _ _ ih hserve

/-! ### Frames -/

section
variable {i : Instr} {s t : State}

theorem Effect.i_eq (h : Effect i s t) (hp : Part.i.writtenBy i = false) : t.i = s.i := by
  cases h with
  | setsI a hi | setsIAndFlag a f hi => simp [hp] at hi
  | _ => simp

theorem Effect.stack_eq (h : Effect i s t) (hp : Part.stack.writtenBy i = false) : t.stack = s.stack := by
  cases h with
  | calls a b hi | returns a hi => simp [hp] at hi
  | _ => simp

theorem Effect.dt_eq (h : Effect i s t) (hp : Part.dt.writtenBy i = false) : t.dt = s.dt := by
  cases h with
  | setsDt b hi => simp [hp] at hi
  | _ => simp

theorem Effect.st_eq (h : Effect i s t) (hp : Part.st.writtenBy i = false) : t.st = s.st := by
  cases h with
  | setsSt b hi => simp [hp] at hi
  | _ => simp

theorem Effect.mem_eq (h : Effect i s t) (hp : Part.mem.writtenBy i = false) : t.mem = s.mem := by
  cases h with
  | stores m hi => simp [hp] at hi
  | _ => simp

theorem Effect.fb_eq (h : Effect i s t) (hp : Part.fb.writtenBy i = false) : t.fb = s.fb := by
  cases h with
  | clears fb hi | drawsSprite c hi => simp [hp] at hi
  | _ => simp

theorem Effect.keys_eq (h : Effect i s t) : t.keys = s.keys := by
  cases h <;> simp

theorem Effect.fault_eq (h : Effect i s t) (hp : Part.fault.writtenBy i = false) : t.fault = s.fault := by
  cases h with
  | fails f hi => simp [hp] at hi
  | _ => simp

theorem Effect.random_eq (h : Effect i s t) (hp : Part.random.writtenBy i = false) :
    t.randomIn = s.randomIn ∧ t.draws = s.draws := by
  cases h with
  | drawsByte x b hi => simp [hp] at hi
  | _ => simp

/-- Outside its destinations, and VF under a flag, an instruction leaves the V registers alone (R21, R22). -/
theorem Effect.reg_eq (h : Effect i s t) {r : Reg} (hr : i.isDest r = false) (hflag : r = VF → i.writesFlag = false) :
    t.reg r = s.reg r := by
  have ne_dest {x : Reg} (hx : i.isDest x = true) : r ≠ x := by rintro rfl; simp [hr] at hx
  have ne_flag (hf : i.writesFlag = true) : r ≠ VF := fun e => by simp [hflag e] at hf
  cases h with
  | setsReg x b hx | drawsByte x b hi hx => simp [ne_dest hx]
  | setsRegAndFlag x b f hx hf => simp [ne_dest hx, ne_flag hf]
  | setsIAndFlag a f hi hf | drawsSprite c hi hf => simp [ne_flag hf]
  | loads n hn hx =>
    have hge : ¬r.val < n := fun hlt => by simp [hx r hlt] at hr
    simp [State.reg_loadRegs s hn, hge]
  | _ => rfl

end

/-- Settles O21: part by part, from the instruction's effect. -/
theorem partsAreWrittenOnlyByTheirInstructions : Obligations.PartsAreWrittenOnlyByTheirInstructions := by
  intro p i s t h hp
  have he := effect_of_exec h
  cases p with
  | i => exact he.i_eq hp
  | pc => cases hp
  | stack => exact he.stack_eq hp
  | dt => exact he.dt_eq hp
  | st => exact he.st_eq hp
  | mem => intro a; rw [State.byteAt, he.mem_eq hp, State.byteAt]
  | fb => intro x y; rw [he.fb_eq hp]
  | keys => intro k; rw [State.key, he.keys_eq, State.key]
  | fault => exact he.fault_eq hp
  | random => exact he.random_eq hp

/-- A flag is written last, so VF holds it: 0 or 1 (R12, R22). -/
theorem exec_flag_zero_or_one {i : Instr} {s t : State} (h : exec i s = .next t) (hf : i.writesFlag = true) :
    t.reg VF = 0 ∨ t.reg VF = 1 := by
  cases i with
  | addReg x y | sub x y | subn x y | shr x y | shl x y | drw x y n | addIVx x =>
    obtain ⟨b, hb⟩ : ∃ b, t.reg VF = flagByte b := by
      cases h; exact ⟨_, State.reg_setReg _ _ _ _ |>.trans (if_pos rfl)⟩
    rw [hb]; exact flagByte_cases b
  | _ => cases hf

/-- Settles O22: the registers from the instruction's effect, the flag from the seven instructions that write it. -/
theorem registersChangeOnlyAsDestinationOrFlag : Obligations.RegistersChangeOnlyAsDestinationOrFlag := by
  intro i s t h
  exact ⟨fun r hr hflag => (effect_of_exec h).reg_eq hr hflag, exec_flag_zero_or_one h⟩

/-! ### Key flags and the sound timer as inputs -/

/-- The state with other key flags and another sound timer. -/
def State.withKeysAndSt (s : State) (ks : Vector Bool 16) (b : Byte) : State := { s with keys := ks, st := b }

section
variable (s : State) (ks : Vector Bool 16) (b : Byte)

theorem State.storeRegs_withKeysAndSt (n : Nat) :
    (s.withKeysAndSt ks b).storeRegs n = (s.storeRegs n).withKeysAndSt ks b := by
  induction n with
  | zero => rfl
  | succ n ih => rw [State.storeRegs, ih]; rfl

theorem State.loadRegs_withKeysAndSt (n : Nat) :
    (s.withKeysAndSt ks b).loadRegs n = (s.loadRegs n).withKeysAndSt ks b := by
  induction n with
  | zero => rfl
  | succ n ih => rw [State.loadRegs, ih]; rfl

theorem State.consumeRandom_withKeysAndSt :
    (s.withKeysAndSt ks b).consumeRandom = s.consumeRandom.withKeysAndSt ks b := by
  obtain ⟨v, i, pc, stack, dt, st, mem, fb, keys, fault, _ | ⟨r, rest⟩, draws⟩ := s <;> rfl

@[simp] theorem State.withKeysAndSt_stack : (s.withKeysAndSt ks b).stack = s.stack := rfl
@[simp] theorem State.reg_withKeysAndSt (r : Reg) : (s.withKeysAndSt ks b).reg r = s.reg r := rfl
@[simp] theorem State.keyAt_withKeysAndSt_keys (k : Byte) : (s.withKeysAndSt s.keys b).keyAt k = s.keyAt k := rfl
@[simp] theorem State.firstKey_withKeysAndSt_keys : (s.withKeysAndSt s.keys b).firstKey = s.firstKey := rfl

end

/-- Nothing an instruction does but its own write of ST shows what ST held, nor, unless it reads them, which keys are
pressed (R31, R35). -/
theorem exec_withKeysAndSt {i : Instr} {s t : State} {ks : Vector Bool 16} (b : Byte)
    (hk : i.readsKeys = true → ks = s.keys) (h : exec i s = .next t) :
    exec i (s.withKeysAndSt ks b) = .next (t.withKeysAndSt ks (if Part.st.writtenBy i then t.st else b)) := by
  cases i with
  | ret =>
    simp only [exec, execRet, State.withKeysAndSt_stack] at h ⊢
    split at h <;> cases h <;> rfl
  | call nnn =>
    simp only [exec, execCall, State.withKeysAndSt_stack] at h ⊢
    split at h <;> next hdepth => cases h; simp only [hdepth, if_true, if_false]; rfl
  | skp x | sknp x =>
    rw [hk rfl]
    simp only [exec, execSkp, execSknp, State.reg_withKeysAndSt, State.keyAt_withKeysAndSt_keys] at h ⊢
    split at h <;> cases h <;> rfl
  | ldVxK x =>
    rw [hk rfl]
    simp only [exec, execLdVxK, State.firstKey_withKeysAndSt_keys] at h ⊢
    split at h <;> cases h <;> rfl
  | rnd x nn => cases h; simp only [exec, execRnd, State.consumeRandom_withKeysAndSt]; rfl
  | ldMemVx x => cases h; simp only [exec, execLdMemVx, State.storeRegs_withKeysAndSt]; rfl
  | ldVxMem x => cases h; simp only [exec, execLdVxMem, State.loadRegs_withKeysAndSt]; rfl
  | _ => cases h; rfl

/-- Settles O23: with ST as it was, an instruction that does not write ST leaves it so. -/
theorem keysMatterOnlyToKeyInstructions : Obligations.KeysMatterOnlyToKeyInstructions := by
  intro i s t ks hk h
  have hst : (if Part.st.writtenBy i then t.st else s.st) = t.st := by
    split
    · rfl
    · next hw => exact ((effect_of_exec h).st_eq (eq_false_of_ne_true hw)).symm
  have hu := exec_withKeysAndSt s.st (ks := ks) (by simp [hk]) h
  rw [hst] at hu
  exact hu

/-- Settles O24: with the key flags as they were, which no instruction writes. -/
theorem noInstructionReadsTheSoundTimer : Obligations.NoInstructionReadsTheSoundTimer := by
  intro i s t b h
  refine ⟨_, exec_withKeysAndSt b (fun _ => rfl) h, ?_⟩
  rw [← (effect_of_exec h).keys_eq]
  rfl

/-! ### The fault latch at the ports -/

/-- No port but INIT and STEP writes the fault latch (R37, R231). -/
theorem serveState_fault_eq {q : Request} {s t : State} {r : Reply} (hinit : q ≠ .init) (hstep : ∀ rnd, q ≠ .step rnd)
    (h : serveState q s = .served (some t) r) : t.fault = s.fault := by
  cases q with
  | init => exact absurd rfl hinit
  | step rnd => exact absurd rfl (hstep rnd)
  | load rom => cases h; exact State.load_fault rom s
  | tick | render | setKey k pressed | readSt => cases h; rfl

/-- Settles O57: a faulted block refuses STEP, and no other port but INIT writes the latch. -/
theorem onlyInitClearsTheLatch : Obligations.OnlyInitClearsTheLatch := by
  refine ⟨fun q s t r f hf hinit h => ?_, fun s => rfl, fun q s t r hinit hstep h => serveState_fault_eq hinit hstep h⟩
  by_cases hstep : ∃ rnd, q = .step rnd
  · obtain ⟨rnd, rfl⟩ := hstep
    change serveStep rnd s = _ at h
    rw [serveStep_of_fault hf] at h
    cases h
  · rw [serveState_fault_eq hinit (not_exists.mp hstep) h, hf]

end Sys2Proof.Machine
end

section
/-! Memory (20_memory.md): the listed cells are what the reads say, a word placed at PC is the word fetched, and the bytes
a store leaves. -/

namespace Sys2Proof

/-- The decoder reads an instruction's word back, family by family (R71, R73, R74). -/
theorem decodeWord_encode (i : Instr) : decodeWord (encode i) = .ok i := by
  cases i with
  | cls | ret => rfl
  | jp nnn | call nnn | ldI nnn | jpV0 nnn => simp [decodeWord, encode, fieldF_wordNNN, fieldNNN_wordNNN]
  | seImm x nn | sneImm x nn | ldImm x nn | addImm x nn | rnd x nn =>
    simp [decodeWord, encode, fieldF_wordXNN, fieldX_wordXNN, fieldNN_wordXNN, nn.isLt]
  | seReg x y | sneReg x y =>
    simp [decodeWord, decodeNibble0, encode, fieldF_wordXYN, fieldX_wordXYN, fieldY_wordXYN, field04_wordXYN]
  | ldReg x y | orReg x y | andReg x y | xorReg x y | addReg x y | sub x y | shr x y | subn x y | shl x y =>
    simp [decodeWord, decodeFamily8, encode, fieldF_wordXYN, fieldX_wordXYN, fieldY_wordXYN, field04_wordXYN]
  | drw x y n =>
    simp [decodeWord, encode, fieldF_wordXYN, fieldX_wordXYN, fieldY_wordXYN, fieldN_wordXYN]
  | skp x | sknp x => simp [decodeWord, decodeFamilyE, encode, fieldF_wordXNN, fieldX_wordXNN, field08_wordXNN]
  | ldVxDt x | ldVxK x | ldDtVx x | ldStVx x | addIVx x | ldFVx x | ldBVx x | ldMemVx x | ldVxMem x =>
    simp [decodeWord, decodeFamilyF, encode, fieldF_wordXNN, fieldX_wordXNN, field08_wordXNN]

/-- A word numbered as the opcode table numbers it is itself (log entry 12). -/
@[simp] theorem tableWord_toNat (w : Word) : tableWord 16 w.toNat = w := by
  rw [tableWord, Nat.mod_eq_of_lt w.isLt, BitVec.ofNat_toNat, BitVec.setWidth_eq]

end Sys2Proof

namespace Sys2Proof.Machine

/-! ### Canonical memory is determined by its reads -/

/-- In sorted memory a listed cell is the one found at its address. -/
theorem Memory.lookup_of_mem {m : Memory} (hs : m.Pairwise (fun c d => c.1 < d.1)) {c : Host.Cell} (hc : c ∈ m) :
    m.lookup c.1 = c.2 := by
  induction m with
  | nil => cases hc
  | cons d m ih =>
    obtain ⟨hd, hm⟩ := List.pairwise_cons.mp hs
    rcases List.mem_cons.mp hc with rfl | hc
    · simp
    · simp [(hd c hc).ne, ih hm hc]

/-- An address that does not look up as an unlisted one is listed, with the byte found. -/
theorem Memory.mem_of_lookup_ne {m : Memory} {a : Nat} (h : m.lookup a ≠ Memory.unlisted) : (a, m.lookup a) ∈ m := by
  induction m with
  | nil => exact absurd rfl h
  | cons c m ih =>
    rw [Memory.lookup_cons] at h ⊢
    split
    · next hc => subst hc; exact List.mem_cons_self
    · next hc => exact List.mem_cons_of_mem _ (ih (by simpa [hc] using h))

/-- The cells of canonical memory are the addresses below 4096 whose byte is not the unlisted one (R50). -/
theorem Memory.mem_iff_read {m : Memory} (h : m.wf) (c : Host.Cell) :
    c ∈ m ↔ c.1 < Config.memSize ∧ c.2 ≠ Memory.unlisted ∧ m.read c.1 = c.2 := by
  obtain ⟨hsorted, hcells⟩ := h
  have read_eq (ha : c.1 < Config.memSize) : m.read c.1 = m.lookup c.1 := by
    rw [Memory.read, show maskAddr c.1 = c.1 from Nat.mod_eq_of_lt ha]
  constructor
  · intro hc
    obtain ⟨ha, hb⟩ := hcells c hc
    exact ⟨ha, hb, (read_eq ha).trans (Memory.lookup_of_mem hsorted hc)⟩
  · rintro ⟨ha, hb, hread⟩
    rw [read_eq ha] at hread
    simpa [hread] using Memory.mem_of_lookup_ne (hread.trans_ne hb)

/-- Settles O7: both lists are sorted, and they have the same cells. -/
theorem canonicalMemoriesThatReadAlikeAreEqual : Obligations.CanonicalMemoriesThatReadAlikeAreEqual := by
  intro m m' hm hm' hread
  exact hm.1.eq_of_mem_iff hm'.1 fun c => by rw [Memory.mem_iff_read hm, Memory.mem_iff_read hm', hread]

/-! ### A word placed at PC -/

/-- Neighbouring addresses name different bytes, the last address of memory included (R51). -/
theorem maskAddr_succ_ne (a : Nat) : maskAddr a ≠ maskAddr (a + 1) := by
  simp only [maskAddr]; omega

/-- A word placed at PC is the word the next STEP fetches, wherever PC is (R54, R102). -/
theorem State.fetchWord_placeWord {s : State} (hm : s.mem.wf) (w : Word) : (s.placeWord w).fetchWord = w := by
  have hhigh : (s.placeWord w).byteAt s.pc.toNat = highByte w := by
    rw [State.placeWord, State.byteAt_setByte (State.mem_wf_setByte hm _ _), State.byteAt_setByte hm,
      if_neg (maskAddr_succ_ne _), if_pos rfl]
  have hlow : (s.placeWord w).byteAt (s.pc.toNat + 1) = lowByte w := by
    rw [State.placeWord, State.byteAt_setByte (State.mem_wf_setByte hm _ _), if_pos rfl]
  rw [State.fetchWord, State.placeWord_pc, hhigh, hlow, wordOfBytes_bytes]

/-- A step of an admitted state whose word decodes runs the instruction (R100). -/
theorem step_of_ok {s : State} {i : Instr} (hf : s.fault = none) (hi : decodeWord s.fetchWord = .ok i) :
    step s = exec i s := by
  simp [step, hf, hi]

/-- Settles O14: the placed word is the one fetched, and it decodes to the instruction it encodes. -/
theorem placedInstructionRuns : Obligations.PlacedInstructionRuns := by
  intro s i hinv hf
  rw [State.withFetchWord, tableWord_toNat]
  refine step_of_ok (s := s.placeWord (encode i)) hf ?_
  rw [State.fetchWord_placeWord hinv.1, decodeWord_encode]

/-! ### Stored code -/

/-- Offsets from I below 4096 name the same byte exactly when they are equal (R176). -/
theorem State.maskAddr_indexed_eq_iff (s : State) {j k : Nat} (hj : j < 4096) (hk : k < 4096) :
    maskAddr (s.indexed j) = maskAddr (s.indexed k) ↔ j = k :=
  ⟨s.maskAddr_indexed_inj hj hk, fun h => h ▸ rfl⟩

/-- Memory after FX33: the three digits at I, I + 1 and I + 2, every other byte as it was (R173). -/
theorem byteAt_of_execLdBVx {x : Reg} {s t : State} (hm : s.mem.wf) (h : execLdBVx x s = .next t) (a : Nat) :
    t.byteAt a =
      if maskAddr a = maskAddr (s.indexed 2) then bcdOnes (s.reg x)
      else if maskAddr a = maskAddr (s.indexed 1) then bcdTens (s.reg x)
      else if maskAddr a = maskAddr (s.indexed 0) then bcdHundreds (s.reg x)
      else s.byteAt a := by
  cases h
  rw [State.byteAt_advance, State.byteAt_setByte (State.mem_wf_setByte (State.mem_wf_setByte hm _ _) _ _),
    State.byteAt_setByte (State.mem_wf_setByte hm _ _), State.byteAt_setByte hm]

/-- A byte has three decimal digits, so its hundreds need no reduction modulo 10 (R173). -/
theorem bcdHundreds_eq_mod (b : Byte) : bcdHundreds b = BitVec.ofNat 8 (b.toNat / 100 % 10) := by
  have := b.isLt
  rw [bcdHundreds, Nat.mod_eq_of_lt (by omega)]

/-- The next fetch sees the digits FX33 stored (R65, R173). -/
theorem execLdBVx_fetchesWhatWasStored {x : Reg} {s t : State} (hm : s.mem.wf) (h : execLdBVx x s = .next t) :
    FetchesWhatWasStored 3 (fun k => BitVec.ofNat 8 ((s.reg x).toNat / 10 ^ (2 - k) % 10)) s t := by
  have hbyte := byteAt_of_execLdBVx hm h
  refine fetchesWhatWasStored (by cases h; rfl) (fun k hk => ?_) fun a ha => ?_
  · rw [hbyte]
    interval_cases k <;> simp [State.maskAddr_indexed_eq_iff, bcdHundreds_eq_mod, bcdTens, bcdOnes]
  · have hne (k : Nat) (hk : k < 3) : maskAddr a ≠ maskAddr (s.indexed k) := ha k hk
    rw [hbyte, if_neg (hne 2 (by decide)), if_neg (hne 1 (by decide)), if_neg (hne 0 (by decide))]

/-- The next fetch sees the registers FX55 stored (R65, R174). -/
theorem execLdMemVx_fetchesWhatWasStored {x : Reg} {s t : State} (hm : s.mem.wf) (h : execLdMemVx x s = .next t) :
    FetchesWhatWasStored (x.val + 1) (fun k => s.reg (Fin.ofNat 16 k)) s t := by
  cases h
  exact fetchesWhatWasStored (by simp) (fun k hk => State.byteAt_storeRegs_indexed hm x.isLt hk)
    fun a ha => State.byteAt_storeRegs_other hm ha

/-- Settles O44: after either store, memory holds the stored bytes where the store reaches and is as it was elsewhere. -/
theorem storedCodeIsFetchedNext : Obligations.StoredCodeIsFetchedNext := by
  intro s t x hinv
  exact ⟨execLdMemVx_fetchesWhatWasStored hinv.1, execLdBVx_fetchesWhatWasStored hinv.1⟩

end Sys2Proof.Machine
end

section
/-! Encoding (30_encoding.md): every word is the encoding of an instruction or one of the words R75 lists, never both, and
the rows of R74 accept exactly the encodings. -/

namespace Sys2Proof

/-! ### A word is made of its fields -/

section
variable {w : Word} {f : Nat}

theorem val_fieldX (w : Word) : (fieldX w).val = field w 8 4 := Nat.mod_eq_of_lt (field_lt w 8 4)

theorem val_fieldY (w : Word) : (fieldY w).val = field w 4 4 := Nat.mod_eq_of_lt (field_lt w 4 4)

theorem val_fieldN (w : Word) : (fieldN w).val = field w 0 4 := Nat.mod_eq_of_lt (field_lt w 0 4)

theorem toNat_fieldNN (w : Word) : (fieldNN w).toNat = field w 0 8 := Nat.mod_eq_of_lt (field_lt w 0 8)

theorem toNat_fieldNNN (w : Word) : (fieldNNN w).toNat = field w 0 12 := Nat.mod_eq_of_lt (field_lt w 0 12)

theorem wordNNN_fields (hF : field w 12 4 = f) : wordNNN f (fieldNNN w) = w := by
  subst hF
  have := w.isLt
  apply BitVec.eq_of_toNat_eq
  simp only [wordNNN, toNat_fieldNNN, field_eq, BitVec.toNat_ofNat]; omega

theorem wordXNN_fields {nn : Nat} (hF : field w 12 4 = f) (hnn : field w 0 8 = nn) : wordXNN f (fieldX w) nn = w := by
  subst hF hnn
  have := w.isLt
  apply BitVec.eq_of_toNat_eq
  simp only [wordXNN, val_fieldX, field_eq, BitVec.toNat_ofNat]; omega

theorem wordXYN_fields {n : Nat} (hF : field w 12 4 = f) (hn : field w 0 4 = n) :
    wordXYN f (fieldX w) (fieldY w) n = w := by
  subst hF hn
  have := w.isLt
  apply BitVec.eq_of_toNat_eq
  simp only [wordXYN, val_fieldX, val_fieldY, field_eq, BitVec.toNat_ofNat]; omega

/-! ### The words of the families that look past the top nibble (R73) -/

theorem exists_encode_of_family8 (hF : field w 12 4 = 0x8) (hn : field w 0 4 ∈ [0, 1, 2, 3, 4, 5, 6, 7, 0xE]) :
    ∃ i, encode i = w := by
  simp only [List.mem_cons, List.not_mem_nil, or_false] at hn
  obtain hn | hn | hn | hn | hn | hn | hn | hn | hn := hn
  · exact ⟨.ldReg _ _, wordXYN_fields hF hn⟩
  · exact ⟨.orReg _ _, wordXYN_fields hF hn⟩
  · exact ⟨.andReg _ _, wordXYN_fields hF hn⟩
  · exact ⟨.xorReg _ _, wordXYN_fields hF hn⟩
  · exact ⟨.addReg _ _, wordXYN_fields hF hn⟩
  · exact ⟨.sub _ _, wordXYN_fields hF hn⟩
  · exact ⟨.shr _ _, wordXYN_fields hF hn⟩
  · exact ⟨.subn _ _, wordXYN_fields hF hn⟩
  · exact ⟨.shl _ _, wordXYN_fields hF hn⟩

theorem exists_encode_of_familyE (hF : field w 12 4 = 0xE) (hnn : field w 0 8 ∈ [0x9E, 0xA1]) : ∃ i, encode i = w := by
  simp only [List.mem_cons, List.not_mem_nil, or_false] at hnn
  obtain hnn | hnn := hnn
  · exact ⟨.skp _, wordXNN_fields hF hnn⟩
  · exact ⟨.sknp _, wordXNN_fields hF hnn⟩

theorem exists_encode_of_familyF (hF : field w 12 4 = 0xF)
    (hnn : field w 0 8 ∈ [0x07, 0x0A, 0x15, 0x18, 0x1E, 0x29, 0x33, 0x55, 0x65]) : ∃ i, encode i = w := by
  simp only [List.mem_cons, List.not_mem_nil, or_false] at hnn
  obtain hnn | hnn | hnn | hnn | hnn | hnn | hnn | hnn | hnn := hnn
  · exact ⟨.ldVxDt _, wordXNN_fields hF hnn⟩
  · exact ⟨.ldVxK _, wordXNN_fields hF hnn⟩
  · exact ⟨.ldDtVx _, wordXNN_fields hF hnn⟩
  · exact ⟨.ldStVx _, wordXNN_fields hF hnn⟩
  · exact ⟨.addIVx _, wordXNN_fields hF hnn⟩
  · exact ⟨.ldFVx _, wordXNN_fields hF hnn⟩
  · exact ⟨.ldBVx _, wordXNN_fields hF hnn⟩
  · exact ⟨.ldMemVx _, wordXNN_fields hF hnn⟩
  · exact ⟨.ldVxMem _, wordXNN_fields hF hnn⟩

end

/-! ### The rows of the table (R74) -/

section
variable (w : Word)

theorem and_F000 : w &&& 0xF000 = BitVec.ofNat 16 (fieldF w * 0x1000) := by
  rw [fieldF, ← toNat_and_F000, BitVec.ofNat_toNat, BitVec.setWidth_eq]

theorem and_F00F : w &&& 0xF00F = BitVec.ofNat 16 (fieldF w * 0x1000 + field w 0 4) := by
  rw [fieldF, ← toNat_and_F00F, BitVec.ofNat_toNat, BitVec.setWidth_eq]

theorem and_F0FF : w &&& 0xF0FF = BitVec.ofNat 16 (fieldF w * 0x1000 + field w 0 8) := by
  rw [fieldF, ← toNat_and_F0FF, BitVec.ofNat_toNat, BitVec.setWidth_eq]

end

/-- Every instruction has its row: some mask cuts the row's bits out of its word. -/
theorem exists_row_of_encode (i : Instr) : ∃ m, (⟨i.mnemonic, m, encode i &&& m⟩ : OpcodeRow) ∈ opcodeRows := by
  cases i with
  | cls | ret => exact ⟨0xFFFF, by decide⟩
  | jp nnn | call nnn | ldI nnn | jpV0 nnn =>
    refine ⟨0xF000, ?_⟩
    rw [encode, and_F000, fieldF_wordNNN (by decide), Instr.mnemonic]
    decide
  | seImm x nn | sneImm x nn | ldImm x nn | addImm x nn | rnd x nn =>
    refine ⟨0xF000, ?_⟩
    rw [encode, and_F000, fieldF_wordXNN (by decide) nn.isLt, Instr.mnemonic]
    decide
  | drw x y n =>
    refine ⟨0xF000, ?_⟩
    rw [encode, and_F000, fieldF_wordXYN (by decide) n.isLt, Instr.mnemonic]
    decide
  | seReg x y | sneReg x y | ldReg x y | orReg x y | andReg x y | xorReg x y | addReg x y | sub x y | shr x y | subn x y
  | shl x y =>
    refine ⟨0xF00F, ?_⟩
    rw [encode, and_F00F, fieldF_wordXYN (by decide) (by decide), field04_wordXYN (by decide), Instr.mnemonic]
    decide
  | skp x | sknp x | ldVxDt x | ldVxK x | ldDtVx x | ldStVx x | addIVx x | ldFVx x | ldBVx x | ldMemVx x | ldVxMem x =>
    refine ⟨0xF0FF, ?_⟩
    rw [encode, and_F0FF, fieldF_wordXNN (by decide) (by decide), field08_wordXNN (by decide), Instr.mnemonic]
    decide

theorem exists_row_accepts_encode (i : Instr) :
    ∃ r ∈ opcodeRows, r.accepts (encode i) = true ∧ r.mnemonic = i.mnemonic := by
  obtain ⟨m, hm⟩ := exists_row_of_encode i
  exact ⟨_, hm, beq_self_eq_true _, rfl⟩

/-- Two rows that accept one word agree on the bits both masks keep. -/
theorem bits_and_mask_of_accepts {r r' : OpcodeRow} {w : Word} (h : r.accepts w = true) (h' : r'.accepts w = true) :
    r.bits &&& r'.mask = r'.bits &&& r.mask := by
  simp only [OpcodeRow.accepts, beq_iff_eq] at h h'
  rw [← h, ← h', BitVec.and_assoc, BitVec.and_assoc, BitVec.and_comm r.mask]

theorem row_eq_of_bits_and_mask :
    ∀ r ∈ opcodeRows, ∀ r' ∈ opcodeRows, r.bits &&& r'.mask = r'.bits &&& r.mask → r = r' := by decide

/-- The rows are disjoint (R74). -/
theorem row_eq_of_accepts {w : Word} {r r' : OpcodeRow} (hr : r ∈ opcodeRows) (hr' : r' ∈ opcodeRows)
    (h : r.accepts w = true) (h' : r'.accepts w = true) : r = r' :=
  row_eq_of_bits_and_mask r hr r' hr' (bits_and_mask_of_accepts h h')

/-- A row of mask 0xFFFF accepts one word. -/
theorem accepts_FFFF (m : String) (w b : Word) : OpcodeRow.accepts ⟨m, 0xFFFF, b⟩ w = true ↔ w = b := by
  rw [OpcodeRow.accepts, show (0xFFFF : Word) = BitVec.allOnes 16 from rfl, BitVec.and_allOnes, beq_iff_eq]

end Sys2Proof

namespace Sys2Proof.Machine

/-! ### Instructions and unsupported words share the words between them -/

/-- Every word is an instruction's or unsupported, family by family (R73, R75). -/
theorem exists_encode_or_unsupportedWord (w : Word) : (∃ i, encode i = w) ∨ UnsupportedWord w := by
  have hlt := field_lt w 12 4
  have := field_lt w 0 4
  unfold UnsupportedWord
  interval_cases hF : field w 12 4
  · by_cases hcls : w = 0x00E0
    · exact .inl ⟨.cls, hcls.symm⟩
    by_cases hret : w = 0x00EE
    · exact .inl ⟨.ret, hret.symm⟩
    exact .inr (.inl ⟨rfl, hcls, hret⟩)
  · exact .inl ⟨.jp _, wordNNN_fields hF⟩
  · exact .inl ⟨.call _, wordNNN_fields hF⟩
  · exact .inl ⟨.seImm _ _, wordXNN_fields hF (toNat_fieldNN w).symm⟩
  · exact .inl ⟨.sneImm _ _, wordXNN_fields hF (toNat_fieldNN w).symm⟩
  · by_cases hzero : field w 0 4 = 0
    · exact .inl ⟨.seReg _ _, wordXYN_fields hF hzero⟩
    · exact .inr (by simp [hzero])
  · exact .inl ⟨.ldImm _ _, wordXNN_fields hF (toNat_fieldNN w).symm⟩
  · exact .inl ⟨.addImm _ _, wordXNN_fields hF (toNat_fieldNN w).symm⟩
  · by_cases hmem : field w 0 4 ∈ [0, 1, 2, 3, 4, 5, 6, 7, 0xE]
    · exact .inl (exists_encode_of_family8 hF hmem)
    · refine .inr (.inr (.inr (.inl ⟨rfl, ?_⟩)))
      simp only [List.mem_cons, List.not_mem_nil, or_false] at hmem ⊢
      omega
  · by_cases hzero : field w 0 4 = 0
    · exact .inl ⟨.sneReg _ _, wordXYN_fields hF hzero⟩
    · exact .inr (by simp [hzero])
  · exact .inl ⟨.ldI _, wordNNN_fields hF⟩
  · exact .inl ⟨.jpV0 _, wordNNN_fields hF⟩
  · exact .inl ⟨.rnd _ _, wordXNN_fields hF (toNat_fieldNN w).symm⟩
  · exact .inl ⟨.drw _ _ _, wordXYN_fields hF (val_fieldN w).symm⟩
  · by_cases hmem : field w 0 8 ∈ [0x9E, 0xA1]
    · exact .inl (exists_encode_of_familyE hF hmem)
    · exact .inr (by simp [hmem])
  · by_cases hmem : field w 0 8 ∈ [0x07, 0x0A, 0x15, 0x18, 0x1E, 0x29, 0x33, 0x55, 0x65]
    · exact .inl (exists_encode_of_familyF hF hmem)
    · exact .inr (by simp [hmem])

theorem decodeWord_of_unsupportedWord {w : Word} (h : UnsupportedWord w) :
    decodeWord w = .error (.unsupportedOpcode w) := by
  obtain ⟨hF, hcls, hret⟩ | ⟨hF, hn⟩ | ⟨hF, hn⟩ | ⟨hF, hn⟩ | ⟨hF, hnn⟩ | ⟨hF, hnn⟩ := h
  · simp only [decodeWord, fieldF, hF, decodeFamily0, if_neg hcls, if_neg hret]
  · simp only [decodeWord, fieldF, hF, decodeNibble0, if_neg hn]
  · simp only [decodeWord, fieldF, hF, decodeFamily8]
    split <;> simp_all
  · simp only [decodeWord, fieldF, hF, decodeNibble0, if_neg hn]
  · simp only [decodeWord, fieldF, hF, decodeFamilyE]
    split <;> simp_all
  · simp only [decodeWord, fieldF, hF, decodeFamilyF]
    split <;> simp_all

/-- Decoding inverts encoding both ways (R74, R78). -/
theorem decodeWord_eq_ok_iff {w : Word} {i : Instr} : decodeWord w = .ok i ↔ encode i = w := by
  constructor
  · intro h
    obtain ⟨j, rfl⟩ | hw := exists_encode_or_unsupportedWord w
    · rw [decodeWord_encode] at h; cases h; rfl
    · rw [decodeWord_of_unsupportedWord hw] at h; cases h
  · rintro rfl
    exact decodeWord_encode i

/-- No row accepts an unsupported word: row by row, the fields the row fixes are none that R75 lists. -/
theorem not_accepts_of_unsupportedWord {w : Word} (h : UnsupportedWord w) : ∀ r ∈ opcodeRows, ¬r.accepts w = true := by
  have hcls : w ≠ 0x00E0 := by rintro rfl; revert h; unfold UnsupportedWord; decide
  have hret : w ≠ 0x00EE := by rintro rfl; revert h; unfold UnsupportedWord; decide
  have := field_lt w 0 4
  have := field_lt w 0 8
  simp only [UnsupportedWord, List.mem_cons, List.not_mem_nil, or_false] at h
  simp only [opcodeRows, rowsLow, rowsMid, rowsHigh, List.forall_mem_append, List.forall_mem_cons, List.not_mem_nil,
    accepts_FFFF, accepts_F000, accepts_F00F, accepts_F0FF, BitVec.reduceToNat, hcls, hret, false_implies, implies_true,
    not_false_eq_true, and_true, true_and]
  omega

/-- The operands of an instruction are the fields of its word (R71). -/
theorem takesFieldsOf_encode (i : Instr) : TakesFieldsOf i (encode i) := by
  cases i with
  | cls | ret => simp [TakesFieldsOf, Instr.fields]
  | jp nnn | call nnn | ldI nnn | jpV0 nnn =>
    simp [TakesFieldsOf, Instr.fields, encode, ← toNat_fieldNNN, fieldNNN_wordNNN]
  | seImm x nn | sneImm x nn | ldImm x nn | addImm x nn | rnd x nn =>
    simp [TakesFieldsOf, Instr.fields, encode, ← val_fieldX, fieldX_wordXNN, field08_wordXNN, nn.isLt]
  | seReg x y | sneReg x y | ldReg x y | orReg x y | andReg x y | xorReg x y | addReg x y | sub x y | shr x y | subn x y
  | shl x y =>
    simp [TakesFieldsOf, Instr.fields, encode, ← val_fieldX, ← val_fieldY, fieldX_wordXYN, fieldY_wordXYN]
  | drw x y n =>
    simp [TakesFieldsOf, Instr.fields, encode, ← val_fieldX, ← val_fieldY, fieldX_wordXYN, fieldY_wordXYN,
      field04_wordXYN]
  | skp x | sknp x | ldVxDt x | ldVxK x | ldDtVx x | ldStVx x | addIVx x | ldFVx x | ldBVx x | ldMemVx x | ldVxMem x =>
    simp [TakesFieldsOf, Instr.fields, encode, ← val_fieldX, fieldX_wordXNN]

/-! ### The obligations -/

/-- Settles O8: `decodeWord_encode`, which splits over the instructions. -/
theorem decodeOfEncodeIsTheInstruction : Obligations.DecodeOfEncodeIsTheInstruction := decodeWord_encode

/-- Settles O9: a word that decodes is an encoding, and encodings decode to their instructions. -/
theorem encodeOfDecodeIsTheWord : Obligations.EncodeOfDecodeIsTheWord := fun _ _ => decodeWord_eq_ok_iff.mp

/-- Settles O10: a word that decodes is its instruction's, whose row accepts it; a word that a row accepts is not
unsupported, so it is an instruction's, and the row is that instruction's. -/
theorem decoderFollowsTheOpcodeTable : Obligations.DecoderFollowsTheOpcodeTable := by
  refine ⟨rfl, fun w r hr r' hr' => row_eq_of_accepts hr hr', fun w i h => ?_, fun w r hr h => ?_⟩
  · obtain rfl := decodeWord_eq_ok_iff.mp h
    exact ⟨takesFieldsOf_encode i, exists_row_accepts_encode i⟩
  · obtain ⟨i, rfl⟩ | hw := exists_encode_or_unsupportedWord w
    · obtain ⟨r', hr', h', hname⟩ := exists_row_accepts_encode i
      exact ⟨i, decodeWord_encode i, by rw [← hname, row_eq_of_accepts hr hr' h h']⟩
    · exact absurd h (not_accepts_of_unsupportedWord hw r hr)

/-- Settles O11: an encoding decodes, so a word that does not is unsupported. -/
theorem exactlyTheListedWordsAreUnsupported : Obligations.ExactlyTheListedWordsAreUnsupported := by
  refine ⟨fun w => ⟨?_, fun hw => ⟨_, decodeWord_of_unsupportedWord hw⟩⟩, fun s hf hw =>
    step_of_error hf (decodeWord_of_unsupportedWord hw)⟩
  rintro ⟨e, he⟩
  obtain ⟨i, rfl⟩ | hw := exists_encode_or_unsupportedWord w
  · rw [decodeWord_encode] at he; cases he
  · exact hw

/-- Settles O12: each word is the encoding of its instruction. -/
theorem wordsOfTheSpecDecode : Obligations.WordsOfTheSpecDecode :=
  ⟨decodeWord_encode .cls, decodeWord_encode (.call 0xABC), decodeWord_encode (.seImm 3 0x42),
    decodeWord_encode (.sub 1 2), decodeWord_encode (.shl 1 2), decodeWord_encode (.jpV0 0xFFF),
    decodeWord_encode (.drw 0xA 0xB 5), decodeWord_encode (.sknp 3), decodeWord_encode (.ldVxMem 0xF)⟩

end Sys2Proof.Machine
end

section
/-! The execution cycle (40_execution_cycle.md): fetch, admission, what an error leaves, PC after a STEP, and the STEP
port's status and random byte. -/

namespace Sys2Proof

/-- Big-endian: the byte at the lower address weighs 256 (R54). -/
theorem toNat_wordOfBytes (hi lo : Byte) : (wordOfBytes hi lo).toNat = 256 * hi.toNat + lo.toNat := by
  have hhi := hi.isLt
  have hlo : lo.toNat < 2 ^ 8 := lo.isLt
  rw [wordOfBytes, ← Nat.shiftLeft_add_eq_or_of_lt hlo, Nat.shiftLeft_eq, BitVec.toNat_ofNat]
  omega

end Sys2Proof

namespace Sys2Proof.Machine

/-! ### Fetch and decode -/

/-- Settles O15: the word is made of the bytes at PC and PC + 1, and a read masks its address. -/
theorem fetchIsBigEndianAndMasked : Obligations.FetchIsBigEndianAndMasked := by
  intro s
  rw [State.fetchWord, toNat_wordOfBytes, s.byteAt_congr (Nat.mod_mod s.pc.toNat 4096),
    s.byteAt_congr (Nat.mod_mod (s.pc.toNat + 1) 4096)]

/-- Settles O13: with the latch none and a word that decodes, `step` has one case left. -/
theorem stepRunsTheDecodedInstruction : Obligations.StepRunsTheDecodedInstruction := fun _ _ => step_of_ok

/-! ### Admission -/

theorem step_of_fault {s : State} {f : Fault} (hf : s.fault = some f) : step s = .refused (.sessionEnded f) := by
  simp [step, hf]

/-- An admitted STEP answers a next state, whatever it fetches. -/
theorem exists_step_of_fault_none {s : State} (hf : s.fault = none) : ∃ t, step s = .next t := by
  cases hw : decodeWord s.fetchWord with
  | ok i =>
    obtain ⟨t, ht, -⟩ := exec_effect i s
    exact ⟨t, (step_of_ok hf hw).trans ht⟩
  | error e => exact ⟨_, step_of_error hf hw⟩

/-- Settles O16: the latch alone decides, and before INIT there is no state to step. -/
theorem stepIsAdmittedOnlyWhileTheLatchIsNone : Obligations.StepIsAdmittedOnlyWhileTheLatchIsNone :=
  ⟨fun _ => rfl, fun _ => exists_step_of_fault_none, fun _ _ => step_of_fault,
    fun _ _ rnd hf => serveStep_of_fault hf rnd⟩

/-! ### What an error leaves -/

/-- An instruction that leaves an error has left nothing else: of the shapes of its next state only `fails` writes the
latch. -/
theorem Effect.eq_of_fault_eq_some {i : Instr} {s t : State} {f : Fault} (h : Effect i s t) (hs : s.fault = none)
    (ht : t.fault = some f) : t = { s with fault := some f } := by
  cases h with
  | fails g => cases ht; rfl
  | _ => simp [hs] at ht

/-- Settles O18: by the instruction's effect, or by the effect of an unsupported word. -/
theorem errorChangesOnlyTheLatch : Obligations.ErrorChangesOnlyTheLatch := by
  intro s t f h ht
  obtain ⟨hs, ⟨i, -, hexec⟩ | ⟨e, -, rfl⟩⟩ := step_cases h
  · exact (effect_of_exec hexec).eq_of_fault_eq_some hs ht
  · cases ht; rfl

/-! ### PC after a STEP -/

/-- NNN is zero-extended, so its value is kept (R72). -/
@[simp] theorem toNat_zextNNN (nnn : Addr) : (zextNNN nnn).toNat = nnn.toNat :=
  BitVec.toNat_setWidth_of_le (by decide)

/-- `V0 + NNN` is at most 0x10FE, so its 16 bits hold the sum (R127). -/
@[simp] theorem toNat_offsetTarget (v0 : Byte) (nnn : Addr) : (offsetTarget v0 nnn).toNat = v0.toNat + nnn.toNat := by
  have := v0.isLt
  have := nnn.isLt
  rw [offsetTarget, BitVec.toNat_ofNat]
  omega

/-- A byte that answers for a key is that key's number (R212). -/
theorem State.exists_key_of_keyAt {s : State} {b : Byte} {pressed : Bool} (h : s.keyAt b = some pressed) :
    ∃ k : Fin 16, b.toNat = k.val ∧ s.key k = pressed := by
  by_cases hb : b.toNat < 16
  · rw [State.keyAt_of_lt hb] at h
    exact ⟨⟨b.toNat, hb⟩, rfl, Option.some.inj h⟩
  · rw [State.keyAt_of_ge (Nat.le_of_not_lt hb)] at h
    cases h

section
variable {s t : State} (ht : t.fault = none)
include ht

theorem execRet_pcAfter (h : execRet s = .next t) : PcAfter .ret s t := by
  unfold execRet at h
  split at h
  · cases h; cases ht
  · next hstack => cases h; simp [PcAfter, hstack]

theorem execCall_pcAfter {nnn : Addr} (h : execCall nnn s = .next t) : PcAfter (.call nnn) s t := by
  unfold execCall at h
  split at h
  · cases h; cases ht
  · cases h; simp [PcAfter]

theorem execKeySkips_pcAfter {x : Reg} :
    (execSkp x s = .next t → PcAfter (.skp x) s t) ∧ (execSknp x s = .next t → PcAfter (.sknp x) s t) := by
  cases hk : s.keyAt (s.reg x) with
  | none =>
    obtain ⟨hskp, hsknp⟩ := execKeySkips_of_none hk
    rw [hskp, hsknp]
    constructor <;> (intro h; cases h; cases ht)
  | some pressed =>
    obtain ⟨hskp, hsknp⟩ := execKeySkips_of_some hk
    obtain ⟨k, hx, rfl⟩ := State.exists_key_of_keyAt hk
    rw [hskp, hsknp]
    constructor <;> (intro h; cases h; exact ⟨k, hx, by cases s.key k <;> rfl⟩)

end

theorem execLdVxK_pcAfter {x : Reg} {s t : State} (h : execLdVxK x s = .next t) : PcAfter (.ldVxK x) s t := by
  unfold execLdVxK at h
  split at h
  · next k hk =>
    cases h
    have hpressed := (State.firstKey_eq_some.mp hk).1
    exact ⟨fun hnone => by simp [hnone k] at hpressed, fun _ => rfl⟩
  · next hk =>
    cases h
    have hnone := State.firstKey_eq_none.mp hk
    exact ⟨fun _ => rfl, fun ⟨k, hpressed⟩ => by simp [hnone k] at hpressed⟩

/-- PC after an instruction that leaves no error, by the groups of R104's table. -/
theorem exec_pcAfter {i : Instr} {s t : State} (h : exec i s = .next t) (ht : t.fault = none) : PcAfter i s t := by
  cases i with
  | ret => exact execRet_pcAfter ht h
  | call nnn => exact execCall_pcAfter ht h
  | skp x => exact (execKeySkips_pcAfter ht).1 h
  | sknp x => exact (execKeySkips_pcAfter ht).2 h
  | ldVxK x => exact execLdVxK_pcAfter h
  | jp nnn => cases h; exact toNat_zextNNN nnn
  | jpV0 nnn => cases h; exact toNat_offsetTarget _ nnn
  | seImm x nn | sneImm x nn | seReg x y | sneReg x y => cases h; simp [PcAfter]
  | rnd x nn | ldMemVx x | ldVxMem x => cases h; simp [PcAfter]
  | _ => cases h; rfl

/-- Settles O20: the table by `exec_pcAfter`; an error leaves PC, as all but the latch, as it was. -/
theorem pcAfterEveryStep : Obligations.PcAfterEveryStep := by
  refine ⟨fun s t i hi h ht => ?_, fun s t h ht => ?_⟩
  · obtain ⟨hs, -⟩ := step_cases h
    exact exec_pcAfter ((step_of_ok hs hi).symm.trans h) ht
  · obtain ⟨f, hf⟩ := Option.ne_none_iff_exists'.mp ht
    rw [errorChangesOnlyTheLatch s t f h hf]

/-! ### The STEP port -/

/-- The state with other bytes waiting for CXNN: the STEP port steps `s.withRandomIn [rnd]` (R246). -/
def State.withRandomIn (s : State) (bytes : List Byte) : State := { s with randomIn := bytes }

@[simp] theorem State.withRandomIn_stack (s : State) (l : List Byte) : (s.withRandomIn l).stack = s.stack := rfl
@[simp] theorem State.reg_withRandomIn (s : State) (l : List Byte) (r : Reg) : (s.withRandomIn l).reg r = s.reg r := rfl
@[simp] theorem State.keyAt_withRandomIn (s : State) (l : List Byte) (k : Byte) :
    (s.withRandomIn l).keyAt k = s.keyAt k := rfl
@[simp] theorem State.firstKey_withRandomIn (s : State) (l : List Byte) :
    (s.withRandomIn l).firstKey = s.firstKey := rfl

/-- The STEP port answers with the state its step leaves, the waiting bytes put back, and that state's status. -/
theorem serveStep_of_next {rnd : Byte} {s u : State} (h : step (s.withRandomIn [rnd]) = .next u) :
    serveStep rnd s = .served (some (u.withRandomIn s.randomIn)) (.status u.status) := by
  change step { s with randomIn := [rnd] } = _ at h
  simp only [serveStep, State.stepWith, h]
  rfl

theorem State.status_eq_success_iff {s : State} : s.status = .success ↔ s.fault = none := by
  cases hf : s.fault <;> simp [State.status, hf]

theorem State.status_eq_error_iff {s : State} {f : Fault} : s.status = .error f ↔ s.fault = some f := by
  cases hf : s.fault <;> simp [State.status, hf]

/-- Settles O17: the step has an outcome, and the status is read off the latch it leaves. -/
theorem stepPortReturnsTheStatus : Obligations.StepPortReturnsTheStatus := by
  intro s rnd hf
  obtain ⟨u, hu⟩ := exists_step_of_fault_none (s := s.withRandomIn [rnd]) hf
  exact ⟨_, u.status, serveStep_of_next hu, State.status_eq_success_iff, fun _ => State.status_eq_error_iff⟩

/-! ### The random byte -/

/-- Writing VX and going on to the next word changes nothing else. -/
theorem frame_setReg_advance (s : State) (x : Reg) (b : Byte) : Frame [x] [] s (s.setReg x b).advance := by
  refine ⟨fun r hr => ?_, fun p hp => ?_⟩
  · rw [State.reg_advance, State.reg_setReg, if_neg (List.ne_of_not_mem_cons hr)]
  · cases p with
    | pc => exact absurd List.mem_cons_self hp
    | mem | keys => exact fun _ => rfl
    | fb => exact fun _ _ => rfl
    | random => exact ⟨rfl, rfl⟩
    | i | stack | dt | st | fault => rfl

/-- CXNN at the STEP port: the host's byte is the one drawn, and the bytes that waited wait on (R109, R151, R246). -/
theorem serveStep_of_rnd {s : State} {x : Reg} {nn : Byte} (hf : s.fault = none)
    (hw : decodeWord s.fetchWord = .ok (.rnd x nn)) (rnd : Byte) :
    serveStep rnd s = .served (some (s.setReg x (rnd &&& nn)).advance) (.status .success) := by
  have hstep : step (s.withRandomIn [rnd]) = .next ((s.withRandomIn []).setReg x (rnd &&& nn)).advance :=
    step_of_ok (s := s.withRandomIn [rnd]) hf hw
  have hstatus : ((s.withRandomIn []).setReg x (rnd &&& nn)).advance.status = .success :=
    State.status_eq_success_iff.mpr hf
  rw [serveStep_of_next hstep, hstatus]
  rfl

section
variable (s : State) (l : List Byte)

theorem State.storeRegs_withRandomIn (n : Nat) : (s.withRandomIn l).storeRegs n = (s.storeRegs n).withRandomIn l := by
  induction n with
  | zero => rfl
  | succ n ih => rw [State.storeRegs, ih]; rfl

theorem State.loadRegs_withRandomIn (n : Nat) : (s.withRandomIn l).loadRegs n = (s.loadRegs n).withRandomIn l := by
  induction n with
  | zero => rfl
  | succ n ih => rw [State.loadRegs, ih]; rfl

end

/-- No instruction but CXNN sees the bytes that wait for it (R152, R246). -/
theorem exec_withRandomIn {i : Instr} {s t : State} (l : List Byte) (hi : ∀ x nn, i ≠ .rnd x nn)
    (h : exec i s = .next t) : exec i (s.withRandomIn l) = .next (t.withRandomIn l) := by
  cases i with
  | rnd x nn => exact absurd rfl (hi x nn)
  | ret =>
    simp only [exec, execRet, State.withRandomIn_stack] at h ⊢
    split at h <;> cases h <;> rfl
  | call nnn =>
    simp only [exec, execCall, State.withRandomIn_stack] at h ⊢
    split at h <;> next hdepth => cases h; simp only [hdepth, if_true, if_false]; rfl
  | skp x | sknp x =>
    simp only [exec, execSkp, execSknp, State.reg_withRandomIn, State.keyAt_withRandomIn] at h ⊢
    split at h <;> cases h <;> rfl
  | ldVxK x =>
    simp only [exec, execLdVxK, State.firstKey_withRandomIn] at h ⊢
    split at h <;> cases h <;> rfl
  | ldMemVx x => cases h; simp only [exec, execLdMemVx, State.storeRegs_withRandomIn]; rfl
  | ldVxMem x => cases h; simp only [exec, execLdVxMem, State.loadRegs_withRandomIn]; rfl
  | _ => cases h; rfl

/-- A STEP that fetches no CXNN does the same whatever bytes wait for one. -/
theorem step_withRandomIn {s t : State} (l : List Byte) (hw : ∀ x nn, decodeWord s.fetchWord ≠ .ok (.rnd x nn))
    (h : step s = .next t) : step (s.withRandomIn l) = .next (t.withRandomIn l) := by
  obtain ⟨hf, ⟨i, hi, hexec⟩ | ⟨e, he, rfl⟩⟩ := step_cases h
  · rw [step_of_ok (s := s.withRandomIn l) hf hi]
    exact exec_withRandomIn l (fun x nn hrnd => hw x nn (hrnd ▸ hi)) hexec
  · exact step_of_error (s := s.withRandomIn l) hf he

/-- Settles O37: CXNN by `serveStep_of_rnd`; any other STEP answers as `step` on the state itself, whatever the byte. -/
theorem stepPortSuppliesTheDraw : Obligations.StepPortSuppliesTheDraw := by
  intro s hf
  refine ⟨fun x nn rnd hw => ⟨_, serveStep_of_rnd hf hw rnd, by simp, frame_setReg_advance s x _⟩, fun hw => ?_⟩
  obtain ⟨t, ht⟩ := exists_step_of_fault_none hf
  have hserve (rnd : Byte) :
      serve (.step rnd) (some s) = .served (some (t.withRandomIn s.randomIn)) (.status t.status) :=
    serveStep_of_next (u := t.withRandomIn [rnd]) (step_withRandomIn [rnd] hw ht)
  intro rnd rnd'
  rw [hserve rnd, hserve rnd']

end Sys2Proof.Machine
end

section
/-! Control flow (41_control_flow.md): RET and CALL by the state of the stack, the jumps and the comparing skips, each
with its frame. -/

namespace Sys2Proof.Machine

/-! ### Frames of PC and the stack -/

theorem Part.same_refl (p : Part) (s : State) : p.same s s := by
  cases p with
  | mem | keys => exact fun _ => rfl
  | fb => exact fun _ _ => rfl
  | random => exact ⟨rfl, rfl⟩
  | _ => rfl

theorem Frame.refl (s : State) : Frame [] [] s s := ⟨fun _ _ => rfl, fun p _ => p.same_refl s⟩

/-- Every frame leaves PC open, so setting PC keeps it. -/
theorem Frame.jumpTo {rs : List Reg} {ps : List Part} {s t : State} (h : Frame rs ps s t) (a : Word) :
    Frame rs ps s (t.jumpTo a) := by
  obtain ⟨hregs, hparts⟩ := h
  refine ⟨hregs, fun p hp => ?_⟩
  cases p with
  | pc => exact absurd List.mem_cons_self hp
  | _ => exact hparts _ hp

/-- A new stack in place of the old changes nothing else; `push` and `dropTop` are two such changes. -/
theorem frame_withStack (s : State) (l : List Word) : Frame [] [.stack] s { s with stack := l } := by
  refine ⟨fun _ _ => rfl, fun p hp => ?_⟩
  have hsame := p.same_refl s
  cases p with
  | stack => simp at hp
  | _ => exact hsame

/-! ### RET and CALL -/

theorem execRet_of_nil {s : State} (hs : s.stack = []) : execRet s = .next { s with fault := some .stackUnderflow } := by
  simp [execRet, hs]

theorem execRet_of_cons {s : State} {a : Word} {rest : List Word} (hs : s.stack = a :: rest) :
    execRet s = .next (s.dropTop.jumpTo a) := by
  simp [execRet, hs]

theorem execCall_of_lt {s : State} (hs : s.stack.length < 16) (nnn : Addr) :
    execCall nnn s = .next ((s.push (s.pc + 2)).jumpTo (zextNNN nnn)) :=
  if_neg (Nat.not_le_of_lt hs)

theorem execCall_of_ge {s : State} (hs : 16 ≤ s.stack.length) (nnn : Addr) :
    execCall nnn s = .next { s with fault := some .stackOverflow } :=
  if_pos hs

/-- Settles O25: by whether the stack has a top entry. -/
theorem returnPopsTheStack : Obligations.ReturnPopsTheStack := by
  refine ⟨fun s a rest hs => ?_, fun s hs => execRet_of_nil hs⟩
  have hstack : (s.dropTop.jumpTo a).stack = rest := by simp [hs]
  exact ⟨_, execRet_of_cons hs, rfl, hstack, (frame_withStack s _).jumpTo a⟩

/-- Settles O26: by whether the stack has room. -/
theorem callPushesTheReturnAddress : Obligations.CallPushesTheReturnAddress :=
  ⟨fun s nnn hs => ⟨_, execCall_of_lt hs nnn, rfl, toNat_zextNNN nnn, (frame_withStack s _).jumpTo _⟩,
    fun _ nnn hs => execCall_of_ge hs.ge nnn⟩

/-- Settles O27: RET pops what CALL pushed, so the two together are one jump to PC + 2. -/
theorem callThenReturnComesBack : Obligations.CallThenReturnComesBack := by
  intro s nnn hs
  have hret : execRet ((s.push (s.pc + 2)).jumpTo (zextNNN nnn)) = .next (s.jumpTo (s.pc + 2)) := execRet_of_cons rfl
  exact ⟨_, _, execCall_of_lt hs nnn, hret, rfl, (Frame.refl s).jumpTo _⟩

/-! ### Jumps -/

/-- Settles O28: both are `jumpTo`, and the targets fit in 16 bits. -/
theorem jumpsSetThePc : Obligations.JumpsSetThePc := fun s nnn =>
  ⟨⟨_, rfl, toNat_zextNNN nnn, (Frame.refl s).jumpTo _⟩, _, rfl, toNat_offsetTarget _ nnn, (Frame.refl s).jumpTo _⟩

/-! ### Skips -/

/-- An instruction that skips on a flag skips on the condition the flag stands for, and writes PC alone (R104). -/
theorem skips_of_exec_skipIf {i : Instr} {s : State} {taken : Bool} {p : Prop} [Decidable p]
    (h : exec i s = .next (s.skipIf taken)) (hp : taken = true ↔ p) :
    ∃ t, exec i s = .next t ∧ t.pc = (if p then s.pc + 4 else s.pc + 2) ∧ Frame [] [] s t := by
  refine ⟨_, h, ?_, (Frame.refl s).jumpTo _⟩
  rw [State.skipIf_pc]
  exact if_congr hp rfl rfl

/-- Settles O29: the flag of each skip is the comparison the rule names. -/
theorem comparisonsSkip : Obligations.ComparisonsSkip := fun _ _ _ _ =>
  ⟨skips_of_exec_skipIf rfl beq_iff_eq, skips_of_exec_skipIf rfl bne_iff_ne, skips_of_exec_skipIf rfl beq_iff_eq,
    skips_of_exec_skipIf rfl bne_iff_ne⟩

end Sys2Proof.Machine
end

section
/-! Arithmetic and logic (42_alu.md): an instruction here writes VX, and some then write VF as a flag; the values it
writes are those its rule names, and the rest of the state is framed. -/

namespace Sys2Proof.Machine

/-! ### Frames of register writes and draws -/

/-- A register write adds its register to the frame. -/
theorem Frame.setReg {rs : List Reg} {ps : List Part} {s t : State} (h : Frame rs ps s t) (x : Reg) (b : Byte) :
    Frame (rs ++ [x]) ps s (t.setReg x b) := by
  obtain ⟨hregs, hparts⟩ := h
  refine ⟨fun r hr => ?_, fun p hp => ?_⟩
  · obtain ⟨hrs, hx⟩ := not_or.mp (mt List.mem_append.mpr hr)
    rw [State.reg_setReg, if_neg (List.ne_of_not_mem_cons hx), hregs r hrs]
  · have hsame := hparts p hp
    cases p <;> exact hsame

/-- Writing VX, then VF, and going on to the next word changes nothing else. -/
theorem frame_setRegThenFlag_advance (s : State) (x : Reg) (b f : Byte) :
    Frame [x, VF] [] s (s.setRegThenFlag x b f).advance :=
  (((Frame.refl s).setReg x b).setReg VF f).jumpTo _

/-- A draw consumes random input and changes nothing else (R152). -/
theorem frame_consumeRandom (s : State) : Frame [] [.random] s s.consumeRandom := by
  refine ⟨fun r _ => s.reg_consumeRandom r, fun p hp => ?_⟩
  cases p with
  | pc | random => simp at hp
  | mem => exact s.byteAt_consumeRandom
  | fb => intro x y; rw [s.consumeRandom_fb]
  | keys => intro k; rw [State.key, s.consumeRandom_keys, State.key]
  | i => exact s.consumeRandom_i
  | stack => exact s.consumeRandom_stack
  | dt => exact s.consumeRandom_dt
  | st => exact s.consumeRandom_st
  | fault => exact s.consumeRandom_fault

/-! ### The registers written -/

section
variable (s : State) (x : Reg) (b f : Byte)

theorem State.reg_setReg_advance_same : (s.setReg x b).advance.reg x = b := by simp

theorem State.reg_setRegThenFlag_advance_same {x : Reg} (hx : x ≠ VF) :
    (s.setRegThenFlag x b f).advance.reg x = b := by
  simp [hx]

/-- The flag is written last, so VF holds it for X = F too (R107). -/
theorem State.reg_setRegThenFlag_advance_VF : (s.setRegThenFlag x b f).advance.reg VF = f := by simp

end

/-! ### The flags -/

theorem carryFlag_eq_ite (a b : Byte) : carryFlag a b = if a.toNat + b.toNat > 255 then 1 else 0 := by
  simp [carryFlag, flagByte]

theorem notBorrowFlag_eq_ite (a b : Byte) : notBorrowFlag a b = if a.toNat < b.toNat then 0 else 1 := by
  simp only [notBorrowFlag, flagByte, decide_eq_true_eq, ← Nat.not_lt, ite_not]

theorem toNat_flagByte (b : Bool) : (flagByte b).toNat = b.toNat := by cases b <;> rfl

theorem toNat_shiftedOutRight (b : Byte) : (shiftedOutRight b).toNat = b.toNat % 2 := by
  rw [shiftedOutRight, toNat_flagByte, BitVec.getLsbD, Nat.toNat_testBit, Nat.pow_zero, Nat.div_one]

theorem toNat_shiftedOutLeft (b : Byte) : (shiftedOutLeft b).toNat = b.toNat / 128 := by
  have hlt : b.toNat / 128 < 2 := Nat.div_lt_of_lt_mul b.isLt
  rw [shiftedOutLeft, toNat_flagByte, BitVec.getLsbD, Nat.toNat_testBit]
  exact Nat.mod_eq_of_lt hlt

/-! ### The results -/

/-- A byte difference, with the borrow supplied so that no natural subtraction is cut off (R147, R149). -/
theorem toNat_byte_sub (a b : Byte) : (a - b).toNat = (a.toNat + 256 - b.toNat) % 256 := by bv_omega

theorem toNat_byte_ushiftRight_one (b : Byte) : (b >>> 1).toNat = b.toNat / 2 := by
  rw [BitVec.toNat_ushiftRight, Nat.shiftRight_one]

theorem toNat_byte_shiftLeft_one (b : Byte) : (b <<< 1).toNat = 2 * b.toNat % 256 := by
  rw [BitVec.toNat_shiftLeft, Nat.shiftLeft_eq, Nat.pow_one, Nat.mul_comm]

/-! ### Instructions without a flag -/

/-- Settles O30: both write one register. -/
theorem loadsAndCopiesSetTheRegister : Obligations.LoadsAndCopiesSetTheRegister := fun s x _ _ =>
  ⟨⟨_, rfl, s.reg_setReg_advance_same x _, rfl, frame_setReg_advance s x _⟩,
    _, rfl, s.reg_setReg_advance_same x _, rfl, frame_setReg_advance s x _⟩

/-- Settles O31: byte addition wraps at 256. -/
theorem addImmediateWrapsWithoutFlag : Obligations.AddImmediateWrapsWithoutFlag := fun s x _ =>
  ⟨_, rfl, by rw [State.reg_setReg_advance_same, BitVec.toNat_add], rfl, frame_setReg_advance s x _⟩

/-- Settles O32: the byte operations act on each bit. -/
theorem logicIsBitwiseWithoutFlag : Obligations.LogicIsBitwiseWithoutFlag := fun s x _ =>
  ⟨⟨_, rfl, fun _ => by rw [State.reg_setReg_advance_same, BitVec.getLsbD_or], rfl, frame_setReg_advance s x _⟩,
    ⟨_, rfl, fun _ => by rw [State.reg_setReg_advance_same, BitVec.getLsbD_and], rfl, frame_setReg_advance s x _⟩,
    _, rfl, fun _ => by rw [State.reg_setReg_advance_same, BitVec.getLsbD_xor], rfl, frame_setReg_advance s x _⟩

/-! ### Instructions with a flag -/

/-- An instruction that writes a result of value `n` to VX and then a flag: what R107 and the frame leave to say is the
flag's value. -/
theorem writesResultThenFlag_of_exec {i : Instr} {s : State} {x : Reg} {b f : Byte} {n : Nat}
    (h : exec i s = .next (s.setRegThenFlag x b f).advance) (hb : b.toNat = n) :
    ∃ t, exec i s = .next t ∧ (x ≠ VF → (t.reg x).toNat = n) ∧ t.reg VF = f ∧ t.pc = s.pc + 2 ∧
      Frame [x, VF] [] s t :=
  ⟨_, h, fun hx => by rw [s.reg_setRegThenFlag_advance_same b f hx, hb], s.reg_setRegThenFlag_advance_VF x b f, rfl,
    frame_setRegThenFlag_advance s x b f⟩

/-- Settles O33: byte addition wraps at 256, and the flag is the carry. -/
theorem addSetsTheCarry : Obligations.AddSetsTheCarry := by
  intro s x y
  rw [← carryFlag_eq_ite]
  exact writesResultThenFlag_of_exec rfl (BitVec.toNat_add _ _)

/-- Settles O34: the two are one subtraction with the operands exchanged. -/
theorem subtractionsSetTheNotBorrow : Obligations.SubtractionsSetTheNotBorrow := by
  intro s x y
  simp only [gt_iff_lt, ← notBorrowFlag_eq_ite]
  exact ⟨writesResultThenFlag_of_exec rfl (toNat_byte_sub _ _), writesResultThenFlag_of_exec rfl (toNat_byte_sub _ _)⟩

/-- Settles O35: the flag is the bit the shift moves out of VY. -/
theorem shiftsMoveVyByOne : Obligations.ShiftsMoveVyByOne := by
  intro s x y
  simp only [← toNat_shiftedOutRight, ← toNat_shiftedOutLeft, BitVec.toNat_inj]
  exact ⟨writesResultThenFlag_of_exec rfl (toNat_byte_ushiftRight_one _),
    writesResultThenFlag_of_exec rfl (toNat_byte_shiftLeft_one _)⟩

/-! ### The random byte -/

section
variable {s : State}

theorem State.randomByte_of_cons {r : Byte} {rest : List Byte} (h : s.randomIn = r :: rest) : s.randomByte = r := by
  simp [State.randomByte, h]

theorem State.randomByte_of_nil (h : s.randomIn = []) : s.randomByte = Config.randomByte s.draws := by
  simp [State.randomByte, h]

theorem State.consumeRandom_of_cons {r : Byte} {rest : List Byte} (h : s.randomIn = r :: rest) :
    s.consumeRandom = { s with randomIn := rest } := by
  simp [State.consumeRandom, h]

theorem State.consumeRandom_of_nil (h : s.randomIn = []) : s.consumeRandom = { s with draws := s.draws + 1 } := by
  simp [State.consumeRandom, h]

end

/-- Settles O36: by whether the host has supplied a byte. -/
theorem randomByteIsMasked : Obligations.RandomByteIsMasked := by
  intro s x nn
  have hreg := s.consumeRandom.reg_setReg_advance_same x (s.randomByte &&& nn)
  refine ⟨_, rfl, hreg, fun r rest hr => ?_, fun hr => ?_, ?_, ((frame_consumeRandom s).setReg x _).jumpTo _⟩
  · rw [hreg, State.randomByte_of_cons hr, State.consumeRandom_of_cons hr]
    exact ⟨rfl, rfl, rfl⟩
  · rw [hreg, State.randomByte_of_nil hr, State.consumeRandom_of_nil hr]
    exact ⟨rfl, hr, rfl⟩
  · rw [State.advance_pc, State.setReg_pc, State.consumeRandom_pc]

end Sys2Proof.Machine
end

section
/-! Index register and memory (43_index_memory.md): the values and bytes each instruction leaves, and its frame, which
follows from what an instruction of its kind may write. -/

namespace Sys2Proof.Machine

/-! ### Frames -/

/-- An instruction keeps the parts it may not write (R20). -/
theorem keepsAllBut_of_exec {i : Instr} {s t : State} {ps : List Part} (h : exec i s = .next t)
    (hparts : ∀ p, p.writtenBy i = true → p ∈ ps) : KeepsAllBut ps s t := fun p hp =>
  partsAreWrittenOnlyByTheirInstructions p i s t h (Bool.eq_false_iff.mpr (mt (hparts p) hp))

/-- The frame of an instruction: only the registers and parts it may write change (R20, R21, R22). -/
theorem frame_of_exec {i : Instr} {s t : State} {rs : List Reg} {ps : List Part} (h : exec i s = .next t)
    (hdest : ∀ r, i.isDest r = true → r ∈ rs) (hflag : i.writesFlag = true → VF ∈ rs)
    (hparts : ∀ p, p.writtenBy i = true → p ∈ .pc :: ps) : Frame rs ps s t := by
  refine ⟨fun r hr => ?_, keepsAllBut_of_exec h hparts⟩
  obtain ⟨hregs, -⟩ := registersChangeOnlyAsDestinationOrFlag i s t h
  have hVF (e : r = VF) : ¬i.writesFlag = true := fun hf => hr (e ▸ hflag hf)
  exact hregs r (Bool.eq_false_iff.mpr (mt (hdest r) hr)) fun e => Bool.eq_false_iff.mpr (hVF e)

/-! ### The index register -/

theorem toNat_word_add_byte (i : Word) (b : Byte) : (i + b.setWidth 16).toNat = (i.toNat + b.toNat) % 65536 := by
  rw [BitVec.toNat_add, BitVec.toNat_setWidth_of_le (by decide)]

theorem rangeFlag_eq_ite (i : Word) (b : Byte) : rangeFlag i b = if i.toNat + b.toNat > 0xFFF then 1 else 0 := by
  simp [rangeFlag, flagByte]

theorem toNat_glyphAddr (b : Byte) : (glyphAddr b).toNat = (fontBase + 5 * b.toNat) % 65536 := BitVec.toNat_ofNat _ _

/-- Settles O38: NNN is zero-extended, so its value is kept. -/
theorem loadIndexSetsI : Obligations.LoadIndexSetsI := fun _ nnn =>
  ⟨_, rfl, toNat_zextNNN nnn, rfl, frame_of_exec (i := .ldI nnn) rfl nofun nofun fun | .i, _ | .pc, _ => by simp⟩

/-- Settles O39: word addition wraps at 65536, and the flag reads the sum before that. -/
theorem addToIndexSetsTheRangeFlag : Obligations.AddToIndexSetsTheRangeFlag := by
  intro s x
  rw [← rangeFlag_eq_ite]
  exact ⟨_, rfl, toNat_word_add_byte _ _, (s.setI _).reg_setReg_advance_same VF _, rfl,
    frame_of_exec (i := .addIVx x) rfl nofun (by simp) fun | .i, _ | .pc, _ => by simp⟩

/-- Settles O40: the font ends by 0x200 wherever it lies, and the address is a 16-bit word. -/
theorem glyphAddressIsFontBasePlusFiveVx : Obligations.GlyphAddressIsFontBasePlusFiveVx :=
  ⟨fontBase_fits, fun s x => ⟨_, rfl, toNat_glyphAddr (s.reg x), rfl,
    frame_of_exec (i := .ldFVx x) rfl nofun nofun fun | .i, _ | .pc, _ => by simp⟩⟩

/-! ### Decimal digits -/

theorem toNat_bcdHundreds (b : Byte) : (bcdHundreds b).toNat = b.toNat / 100 :=
  Nat.mod_eq_of_lt (by have := b.isLt; omega)

theorem toNat_bcdTens (b : Byte) : (bcdTens b).toNat = b.toNat / 10 % 10 :=
  Nat.mod_eq_of_lt (by omega)

theorem toNat_bcdOnes (b : Byte) : (bcdOnes b).toNat = b.toNat % 10 :=
  Nat.mod_eq_of_lt (by omega)

/-- Settles O41: the three addresses differ under the mask, so no digit is stored over another. -/
theorem decimalDigitsAreStored : Obligations.DecimalDigitsAreStored := by
  intro s x hinv
  have hbyte := byteAt_of_execLdBVx (x := x) hinv.1 rfl
  refine ⟨_, rfl, ?_, ?_, ?_, fun a ha => ?_, rfl,
    frame_of_exec (i := .ldBVx x) rfl nofun nofun fun | .mem, _ | .pc, _ => by simp⟩
  · simp [hbyte, State.maskAddr_indexed_eq_iff, toNat_bcdHundreds]
  · simp [hbyte, State.maskAddr_indexed_eq_iff, toNat_bcdTens]
  · simp [hbyte, toNat_bcdOnes]
  · have hne (k : Nat) (hk : k < 3) : maskAddr a ≠ maskAddr (s.indexed k) := ha k hk
    rw [hbyte, if_neg (hne 2 (by decide)), if_neg (hne 1 (by decide)), if_neg (hne 0 (by decide))]

/-! ### Register transfers -/

/-- Settles O42: the registers up to VX are the first X + 1, and their addresses differ under the mask. -/
theorem registersAreStored : Obligations.RegistersAreStored := by
  intro s x hinv
  refine ⟨_, rfl, fun r hr => ?_, fun a ha => ?_, ?_,
    frame_of_exec (i := .ldMemVx x) rfl nofun nofun fun | .mem, _ | .pc, _ => by simp⟩
  · rw [State.byteAt_advance, State.byteAt_storeRegs_indexed hinv.1 x.isLt (Nat.lt_succ_of_le hr),
      Fin.ofNat_val_eq_self]
  · have hne (k : Nat) (hk : k < x.val + 1) : maskAddr a ≠ maskAddr (s.indexed k) :=
      ha ⟨k, hk.trans_le x.isLt⟩ (Nat.le_of_lt_succ hk)
    rw [State.byteAt_advance, State.byteAt_storeRegs_other hinv.1 hne]
  · rw [State.advance_pc, State.storeRegs_pc]

/-- Settles O43: the registers up to VX are the first X + 1, and a load writes no part but PC. -/
theorem registersAreLoaded : Obligations.RegistersAreLoaded := by
  intro s x
  refine ⟨_, rfl, fun r => ?_, ?_, keepsAllBut_of_exec (i := .ldVxMem x) rfl fun | .pc, _ => by simp⟩
  · rw [State.reg_advance, s.reg_loadRegs x.isLt]
    exact if_congr Nat.lt_succ_iff rfl rfl
  · rw [State.advance_pc, State.loadRegs_pc]

end Sys2Proof.Machine
end

section
/-! Display (44_display.md): the pixels a sprite covers are the places the compositor draws on, so a draw inverts each
of them once; drawing again covers the same pixels; the render port lists the pixels row by row. -/

namespace Sys2Proof.Machine

/-! ### The pixels a sprite covers -/

theorem placePixel_clip_eq_some_iff {x y : Nat} {p : Fin 64 × Fin 32} :
    placePixel .clip x y = some p ↔ x = p.1.val ∧ y = p.2.val := by
  constructor
  · intro h
    simp only [placePixel] at h
    split at h <;> cases h
    exact ⟨rfl, rfl⟩
  · rintro ⟨rfl, rfl⟩
    exact dif_pos ⟨p.1.isLt, p.2.isLt⟩

theorem placePixel_wrap_eq_some_iff {x y : Nat} {p : Fin 64 × Fin 32} :
    placePixel .wrap x y = some p ↔ x % 64 = p.1.val ∧ y % 32 = p.2.val := by
  simp [placePixel, Prod.ext_iff, Fin.ext_iff]

/-- Column `c` of a sprite byte is bit `7 - c` (R192). -/
theorem getMsbD_byte {c : Nat} (hc : c < 8) (b : Byte) : b.getMsbD c = b.getLsbD (7 - c) := by
  simp [BitVec.getMsbD_eq_getLsbD, hc]

/-- The compositor draws on the pixels that R191 to R194 say the sprite falls on. -/
theorem rowsCover_iff_spriteCovers {e : DrawEdge} {s : State} {vx vy : Byte} {n : Nat} {px : Fin 64} {py : Fin 32} :
    RowsCover e s.spriteByte (originX vx) (originY vy) n (px, py) ↔ SpriteCovers e s vx vy n px py := by
  constructor
  · rintro ⟨r, hr, c, hc, hbit, hplace⟩
    rw [getMsbD_byte hc] at hbit
    cases e with
    | clip => exact ⟨r, c, hr, hc, hbit, placePixel_clip_eq_some_iff.mp hplace⟩
    | wrap => exact ⟨r, c, hr, hc, hbit, placePixel_wrap_eq_some_iff.mp hplace⟩
  · rintro ⟨r, c, hr, hc, hbit, hplace⟩
    rw [← getMsbD_byte hc] at hbit
    cases e with
    | clip => exact ⟨r, hr, c, hc, hbit, placePixel_clip_eq_some_iff.mpr hplace⟩
    | wrap => exact ⟨r, hr, c, hc, hbit, placePixel_wrap_eq_some_iff.mpr hplace⟩

/-- The pixels covered depend on memory, I and the origin alone. -/
theorem spriteCovers_congr {e : DrawEdge} {s t : State} {vx vy wx wy : Byte} {n : Nat} {px : Fin 64} {py : Fin 32}
    (hmem : t.mem = s.mem) (hi : t.i = s.i) (hx : wx.toNat % 64 = vx.toNat % 64) (hy : wy.toNat % 32 = vy.toNat % 32) :
    SpriteCovers e t wx wy n px py ↔ SpriteCovers e s vx vy n px py := by
  simp only [SpriteCovers, State.byteAt, hmem, hi, hx, hy]

/-! ### A draw -/

section
variable {e : DrawEdge} {s : State} {vx vy : Byte} {n : Nat} (hn : n < 16)
include hn

theorem State.pixel_drawSprite {px : Fin 64} {py : Fin 32} : (s.drawSprite e vx vy n).fb.pixel px py = true ↔
    (s.fb.pixel px py = true ↔ ¬SpriteCovers e s vx vy n px py) := by
  obtain ⟨hpixel, -⟩ := Canvas.drawRows_spec e s.spriteByte (originX vx) (originY vy) n (by omega) ⟨s.fb, false⟩
  rw [← rowsCover_iff_spriteCovers]
  exact hpixel (px, py)

theorem State.hit_drawSprite : (s.drawSprite e vx vy n).hit = true ↔
    ∃ px py, SpriteCovers e s vx vy n px py ∧ s.fb.pixel px py = true := by
  obtain ⟨-, hhit⟩ := Canvas.drawRows_spec e s.spriteByte (originX vx) (originY vy) n (by omega) ⟨s.fb, false⟩
  simpa [State.drawSprite, ← rowsCover_iff_spriteCovers] using hhit

end

theorem flagByte_eq_one_iff {b : Bool} : flagByte b = 1 ↔ b = true := by cases b <;> decide

section
variable {s t : State} {x y : Reg} {n : Fin 16} (h : exec (.drw x y n) s = .next t)
include h

theorem pixel_of_exec_drw {px : Fin 64} {py : Fin 32} : t.fb.pixel px py = true ↔
    (s.fb.pixel px py = true ↔ ¬SpriteCovers .clip s (s.reg x) (s.reg y) n.val px py) := by
  cases h
  exact State.pixel_drawSprite n.isLt

theorem reg_VF_of_exec_drw : t.reg VF = 1 ↔
    ∃ px py, SpriteCovers .clip s (s.reg x) (s.reg y) n.val px py ∧ s.fb.pixel px py = true := by
  cases h
  rw [State.reg_advance, State.reg_afterDraw, if_pos rfl, flagByte_eq_one_iff]
  exact State.hit_drawSprite n.isLt

end

/-! ### The obligations -/

/-- Settles O45: the new framebuffer is the dark one. -/
theorem clearDarkensTheDisplay : Obligations.ClearDarkensTheDisplay := fun _ =>
  ⟨_, rfl, Framebuffer.pixel_dark, rfl, frame_of_exec (i := .cls) rfl nofun nofun fun | .fb, _ | .pc, _ => by simp⟩

/-- Settles O47: a sprite of fewer than 16 rows meets no pixel twice, under either edge. -/
theorem spritesUnderEitherEdge : Obligations.SpritesUnderEitherEdge :=
  ⟨rfl, fun _ _ _ _ _ hn => ⟨fun _ _ => State.pixel_drawSprite hn, State.hit_drawSprite hn⟩⟩

/-- Settles O46: VF is a flag, so it is 0 when no covered pixel was lit. -/
theorem drawInvertsTheCoveredPixels : Obligations.DrawInvertsTheCoveredPixels := by
  intro s x y n
  obtain ⟨t, h, -⟩ := exec_effect (.drw x y n) s
  have hpc : t.pc = s.pc + 2 := by cases h; rfl
  refine ⟨t, h, fun _ _ => pixel_of_exec_drw h, (reg_VF_of_exec_drw h).mpr, fun hdark => ?_, hpc,
    frame_of_exec h nofun (by simp) fun | .fb, _ | .pc, _ => by simp⟩
  refine (exec_flag_zero_or_one h rfl).resolve_right fun hone => ?_
  obtain ⟨px, py, hcovers, hlit⟩ := (reg_VF_of_exec_drw h).mp hone
  simp [hdark px py hcovers] at hlit

/-- Settles O48: the second draw covers the same pixels, and of those the first left lit just the ones it lit. -/
theorem drawingTwiceRestoresTheDisplay : Obligations.DrawingTwiceRestoresTheDisplay := by
  intro s t x y n h hx hy
  obtain ⟨u, hu, -⟩ := exec_effect (.drw x y n) t
  have he := effect_of_exec h
  have hcovers (px : Fin 64) (py : Fin 32) : SpriteCovers .clip t (t.reg x) (t.reg y) n.val px py ↔
      SpriteCovers .clip s (s.reg x) (s.reg y) n.val px py := spriteCovers_congr (he.mem_eq rfl) (he.i_eq rfl) hx hy
  refine ⟨u, hu, fun px py => ?_, ?_⟩
  · rw [Bool.eq_iff_iff, pixel_of_exec_drw hu, hcovers, pixel_of_exec_drw h]
    tauto
  · rw [reg_VF_of_exec_drw hu]
    refine exists₂_congr fun px py => ?_
    rw [hcovers]
    exact and_congr_right fun hc => by simp [pixel_of_exec_drw h, hc]

/-- Settles O49: entry `y * 64 + x` has column `x` as its remainder by 64 and row `y` as its quotient. -/
theorem renderIsRowMajor : Obligations.RenderIsRowMajor := by
  refine ⟨offColor_ne_onColor.symm, fun s => ⟨s.render, rfl, by simp [State.render], fun x y => ?_⟩⟩
  have hlt : y.val * 64 + x.val < 2048 := by omega
  have hcol : Fin.ofNat 64 (y.val * 64 + x.val) = x := Fin.ext (by simp [Fin.ofNat])
  have hrow : Fin.ofNat 32 ((y.val * 64 + x.val) / 64) = y := Fin.ext (by simp [Fin.ofNat]; omega)
  rw [State.render, List.getElem?_map, List.getElem?_range hlt, Option.map_some, hcol, hrow, colour]

end Sys2Proof.Machine
end

section
/-! Keys and timers (45_keys_timers.md): the key skips by whether VX names a key, the timer moves, and the key wait by
whether a key is pressed, each with its frame. -/

namespace Sys2Proof.Machine

/-! ### Key skips -/

/-- A byte equal to a key's number answers for that key (R210, R211). -/
theorem State.keyAt_of_toNat_eq {s : State} {b : Byte} {k : Fin 16} (h : b.toNat = k.val) :
    s.keyAt b = some (s.key k) := by
  have hb : b.toNat < 16 := h ▸ k.isLt
  have hk : (⟨b.toNat, hb⟩ : Fin 16) = k := Fin.ext h
  rw [State.keyAt_of_lt hb, hk]

/-- Settles O50: EX9E skips on the flag of key VX and EXA1 on its negation; 16 or more names no key. -/
theorem keySkipsReadTheirKey : Obligations.KeySkipsReadTheirKey := by
  refine fun s x => ⟨fun k hx => ?_, fun hx => execKeySkips_of_none (State.keyAt_of_ge hx)⟩
  obtain ⟨hskp, hsknp⟩ := execKeySkips_of_some (State.keyAt_of_toNat_eq (s := s) hx)
  exact ⟨skips_of_exec_skipIf hskp Iff.rfl, skips_of_exec_skipIf hsknp (by rw [Bool.not_eq_true'])⟩

/-! ### Timers -/

/-- Settles O51: each instruction is one write and the advance of PC; its frame is what it may write. -/
theorem timersAreReadAndSet : Obligations.TimersAreReadAndSet := fun s x =>
  ⟨⟨_, rfl, s.reg_setReg_advance_same x s.dt, rfl, frame_setReg_advance s x s.dt⟩,
    ⟨_, rfl, rfl, rfl, frame_of_exec (i := .ldDtVx x) rfl nofun nofun fun | .dt, _ | .pc, _ => by simp⟩,
    ⟨_, rfl, rfl, rfl, frame_of_exec (i := .ldStVx x) rfl nofun nofun fun | .st, _ | .pc, _ => by simp⟩⟩

/-! ### Key wait -/

section
variable {s : State} (x : Reg)

theorem execLdVxK_of_some {k : Fin 16} (hk : s.firstKey = some k) :
    execLdVxK x s = .next (s.setReg x (BitVec.ofNat 8 k.val)).advance := by
  simp [execLdVxK, hk]

theorem execLdVxK_of_none (hk : s.firstKey = none) : execLdVxK x s = .next s := by
  simp [execLdVxK, hk]

end

/-- A key's number fits in a byte. -/
theorem toNat_ofNat_key (k : Fin 16) : (BitVec.ofNat 8 k.val).toNat = k.val :=
  Nat.mod_eq_of_lt (by omega)

/-- Settles O52: by whether a key is found; the key found is the lowest pressed one. -/
theorem keyWaitTakesTheLowestKey : Obligations.KeyWaitTakesTheLowestKey := by
  refine fun s x => ⟨fun k hpressed hlower => ?_, fun hnone => execLdVxK_of_none x (State.firstKey_eq_none.mpr hnone)⟩
  have hexec := execLdVxK_of_some x (State.firstKey_eq_some.mpr ⟨hpressed, hlower⟩)
  refine ⟨_, hexec, ?_, rfl, frame_setReg_advance s x _⟩
  rw [State.reg_setReg_advance_same, toNat_ofNat_key]

end Sys2Proof.Machine
end

section
/-! Errors and ports (60_exceptions.md): the one error an instruction can raise, TICK and SETKEY with their frames, and
the ports that leave the key flags alone. -/

namespace Sys2Proof.Machine

/-! ### The error an instruction raises -/

/-- The error an instruction raises in a state: each instruction has at most one error condition (R231, R233). -/
def errorOf (i : Instr) (s : State) : Option Fault :=
  match i with
  | .ret => if s.stack = [] then some .stackUnderflow else none
  | .call _ => if 16 ≤ s.stack.length then some .stackOverflow else none
  | .skp x | .sknp x => if 16 ≤ (s.reg x).toNat then some .keyIndexOutOfRange else none
  | _ => none

section
variable {s t : State} (hs : s.fault = none)
include hs

theorem fault_of_execRet (h : execRet s = .next t) : t.fault = errorOf .ret s := by
  cases hstack : s.stack with
  | nil => rw [execRet_of_nil hstack] at h; cases h; simp [errorOf, hstack]
  | cons a rest => rw [execRet_of_cons hstack] at h; cases h; simp [errorOf, hstack, hs]

theorem fault_of_execCall {nnn : Addr} (h : execCall nnn s = .next t) : t.fault = errorOf (.call nnn) s := by
  by_cases hfull : 16 ≤ s.stack.length
  · rw [execCall_of_ge hfull] at h; cases h; simp [errorOf, hfull]
  · rw [execCall_of_lt (Nat.lt_of_not_le hfull)] at h; cases h; simp [errorOf, hfull, hs]

theorem fault_of_execKeySkips {x : Reg} :
    (execSkp x s = .next t → t.fault = errorOf (.skp x) s) ∧
      (execSknp x s = .next t → t.fault = errorOf (.sknp x) s) := by
  by_cases hx : 16 ≤ (s.reg x).toNat
  · obtain ⟨hskp, hsknp⟩ := execKeySkips_of_none (State.keyAt_of_ge hx)
    rw [hskp, hsknp]
    constructor <;> (intro h; cases h; simp [errorOf, hx])
  · obtain ⟨hskp, hsknp⟩ := execKeySkips_of_some (State.keyAt_of_lt (Nat.lt_of_not_le hx))
    rw [hskp, hsknp]
    constructor <;> (intro h; cases h; simp [errorOf, hx, hs])

/-- The latch an instruction leaves holds its error; only four instructions can write it. -/
theorem fault_of_exec {i : Instr} (h : exec i s = .next t) : t.fault = errorOf i s := by
  cases i with
  | ret => exact fault_of_execRet hs h
  | call nnn => exact fault_of_execCall hs h
  | skp x => exact (fault_of_execKeySkips hs).1 h
  | sknp x => exact (fault_of_execKeySkips hs).2 h
  | _ => exact ((effect_of_exec h).fault_eq rfl).trans hs

end

section
variable (i : Instr) (s : State)

theorem errorOf_ne_unsupportedOpcode : errorOf i s ≠ some .unsupportedOpcode := by
  cases i <;> simp [errorOf]

theorem errorOf_eq_stackUnderflow_iff : errorOf i s = some .stackUnderflow ↔ i = .ret ∧ s.stack = [] := by
  cases i <;> simp [errorOf]

theorem errorOf_eq_stackOverflow_iff :
    errorOf i s = some .stackOverflow ↔ (∃ nnn, i = .call nnn) ∧ 16 ≤ s.stack.length := by
  cases i <;> simp [errorOf]

theorem errorOf_eq_keyIndexOutOfRange_iff :
    errorOf i s = some .keyIndexOutOfRange ↔ ∃ x, (i = .skp x ∨ i = .sknp x) ∧ 16 ≤ (s.reg x).toNat := by
  cases i <;> simp [errorOf]

end

/-- Settles O19: a word that decodes leaves its instruction's error, and a word that does not is unsupported. -/
theorem errorsHaveExactlyTheirCauses : Obligations.ErrorsHaveExactlyTheirCauses := by
  intro s t h
  obtain ⟨hlisted, -⟩ := exactlyTheListedWordsAreUnsupported
  rw [← hlisted]
  obtain ⟨hs, ⟨i, hi, hexec⟩ | ⟨e, he, rfl⟩⟩ := step_cases h
  · simp [hi, fault_of_exec hs hexec, errorOf_ne_unsupportedOpcode, errorOf_eq_stackUnderflow_iff,
      errorOf_eq_stackOverflow_iff, errorOf_eq_keyIndexOutOfRange_iff]
  · simp [he]

/-! ### The timers and the key flags -/

theorem keepsAllBut_tick (s : State) : KeepsAllBut [.dt, .st] s s.tick := by
  intro p hp
  have hsame := p.same_refl s
  cases p with
  | dt | st => simp at hp
  | _ => exact hsame

theorem keepsAllBut_setKey (s : State) (k : Fin 16) (pressed : Bool) : KeepsAllBut [.keys] s (s.setKey k pressed) := by
  intro p hp
  have hsame := p.same_refl s
  cases p with
  | keys => simp at hp
  | _ => exact hsame

/-- Settles O53: both timers by `countDown_toNat`, which stops at zero. -/
theorem tickCountsBothTimersDown : Obligations.TickCountsBothTimersDown := fun s =>
  ⟨s.tick, rfl, countDown_toNat s.dt, countDown_toNat s.st, fun r _ => s.reg_tick r, keepsAllBut_tick s⟩

/-- A STEP writes no key flag: its instruction reads them at most (R35). -/
theorem keys_of_step {s t : State} (h : step s = .next t) : t.keys = s.keys := by
  obtain ⟨-, ⟨i, -, hexec⟩ | ⟨e, -, rfl⟩⟩ := step_cases h
  · exact (effect_of_exec hexec).keys_eq
  · rfl

/-- No port but INIT and SETKEY writes a key flag (R244). -/
theorem serveState_keys_eq {q : Request} {s t : State} {r : Reply} (hinit : q ≠ .init)
    (hset : ∀ k pressed, q ≠ .setKey k pressed) (h : serveState q s = .served (some t) r) : t.keys = s.keys := by
  cases q with
  | init => exact absurd rfl hinit
  | setKey k pressed => exact absurd rfl (hset k pressed)
  | load rom => cases h; exact State.load_keys rom s
  | step rnd =>
    obtain ⟨u, hu, rfl⟩ := serveStep_cases h
    have hkeys := keys_of_step hu
    exact hkeys
  | tick | render | readSt => cases h; rfl

/-- Settles O56: SETKEY by its frame, the other ports by `serveState_keys_eq`. -/
theorem keyAndSoundPorts : Obligations.KeyAndSoundPorts := fun s =>
  ⟨fun k pressed => ⟨s.setKey k pressed, rfl, fun j => s.key_setKey k j pressed, fun r _ => s.reg_setKey k pressed r,
      keepsAllBut_setKey s k pressed⟩,
    fun _ _ _ h hinit hset => serveState_keys_eq hinit hset h, rfl⟩

end Sys2Proof.Machine
end

section
/-! Reset and hazards (70_reset_and_hazards.md): INIT as the reset state up to the random fields, LOAD as two runs of
bytes below and above 0x200, and the timers over any number of TICKs. -/

namespace Sys2Proof.Machine

/-! ### INIT -/

section
variable (r : Reg) (k : Fin 16) (a : Nat)

theorem State.reg_reset : State.reset.reg r = 0x00 := by
  rw [State.reg, State.reset_v, Vector.get_replicate]

theorem State.key_reset : State.reset.key k = false := by
  rw [State.key, State.reset_keys, Vector.get_replicate]

theorem State.byteAt_reset : State.reset.byteAt a = 0x00 := rfl

end

/-- INIT has an outcome on every block: the reset state, its random fields aside (R270; log entry 10). -/
theorem serve_init (b : Block) :
    ∃ bytes n, serve .init b = .served (some { State.reset with randomIn := bytes, draws := n }) .done :=
  match b with
  | none => ⟨[], 0, rfl⟩
  | some s => ⟨s.randomIn, s.draws, rfl⟩

/-- Settles O1, by `serve_init`: R40 lists neither random field, so each value is that of the reset state. -/
theorem initLeavesEveryResetValue : Obligations.InitLeavesEveryResetValue := by
  intro b
  obtain ⟨bytes, n, h⟩ := serve_init b
  exact ⟨_, h, State.reg_reset, rfl, rfl, rfl, rfl, rfl, State.byteAt_reset, Framebuffer.pixel_dark, State.key_reset,
    rfl⟩

/-- Settles O2: `serve` asks for INIT while there is no state. -/
theorem onlyInitIsServedBeforeInit : Obligations.OnlyInitIsServedBeforeInit := fun _ hq => if_neg hq

/-! ### LOAD -/

/-- A run of bytes inside memory replaces the bytes it reaches and no other. -/
theorem State.byteAt_setBytes_eq_ite {s : State} (hm : s.mem.wf) {a b : Nat} {bs : List Byte}
    (hfit : a + bs.length ≤ 4096) (hb : b < 4096) :
    (State.setBytes a bs s).byteAt b = if a ≤ b ∧ b - a < bs.length then bs.getD (b - a) 0 else s.byteAt b := by
  rw [State.byteAt_setBytes hm hfit hb]
  by_cases hab : a ≤ b
  · by_cases hlt : b - a < bs.length <;> simp [hab, hlt]
  · simp [hab]

/-- A cut list reads as the whole one up to the cut. -/
theorem getD_take_of_lt {k n : Nat} (hk : k < n) (bs : List Byte) : (bs.take n).getD k 0 = bs.getD k 0 := by
  rw [List.getD_eq_getElem?_getD, List.getElem?_take_of_lt hk, List.getD_eq_getElem?_getD]

/-- The ROM is written over the font, and both fit in memory (R272, R273, R275). -/
theorem State.byteAt_load {s : State} (hm : s.mem.wf) (rom : List Byte) {a : Nat} (ha : a < 4096) :
    (s.load rom).byteAt a =
      if 0x200 ≤ a ∧ a - 0x200 < min rom.length 3584 then rom.getD (a - 0x200) 0
      else if fontBase ≤ a ∧ a < fontBase + 80 then fontData.getD (a - fontBase) 0
      else s.byteAt a := by
  have hfont : fontBase + fontData.length ≤ 4096 := by
    rw [fontData_length]
    exact fontBase_fits.trans (by decide)
  have hlen : (rom.take Config.maxRom).length = min rom.length 3584 := by rw [List.length_take, min_comm, Config.maxRom]
  have hrom : Config.progStart + (rom.take Config.maxRom).length ≤ 4096 := by rw [hlen, Config.progStart]; omega
  rw [State.load, State.byteAt_setBytes_eq_ite (State.mem_wf_setBytes hm _ _) hrom ha,
    State.byteAt_setBytes_eq_ite hm hfont ha, hlen, fontData_length, Config.progStart]
  refine if_ctx_congr Iff.rfl (fun h => ?_) fun _ => if_congr (by omega) rfl rfl
  obtain ⟨-, hreach⟩ := h
  exact getD_take_of_lt (hreach.trans_le (min_le_right _ _)) rom

theorem keepsAllBut_load (rom : List Byte) (s : State) : KeepsAllBut [.mem] s (s.load rom) := by
  intro p hp
  cases p with
  | mem => simp at hp
  | random => exact ⟨State.load_randomIn rom s, State.load_draws rom s⟩
  | fb => intro x y; rw [State.load_fb]
  | keys => intro k; rw [State.key, State.load_keys, State.key]
  | _ => simp [Part.same]

/-- Settles O55: the bytes by `State.byteAt_load`; LOAD writes memory alone. -/
theorem loadPlacesFontAndRom : Obligations.LoadPlacesFontAndRom := fun s rom ⟨hmem, _⟩ =>
  ⟨s.load rom, rfl, fun _ ha => State.byteAt_load hmem rom ha, fun r _ => s.reg_load rom r, keepsAllBut_load rom s⟩

/-! ### The timers over TICKs -/

/-- `n` counts down take `n` off, stopping at zero (R240). -/
theorem countDown_iterate_toNat (t : Byte) (n : Nat) : (countDown^[n] t).toNat = t.toNat - n := by
  induction n with
  | zero => rfl
  | succ n ih => rw [Function.iterate_succ_apply', countDown_toNat, ih, Nat.sub_sub]

section
variable (s : State) (n : Nat)

theorem State.tick_iterate_dt : (State.tick^[n] s).dt = countDown^[n] s.dt :=
  Function.Semiconj.iterate_right (f := State.dt) State.tick_dt n s

theorem State.tick_iterate_st : (State.tick^[n] s).st = countDown^[n] s.st :=
  Function.Semiconj.iterate_right (f := State.st) State.tick_st n s

end

/-- Settles O54: FX15 puts VX into DT and leaves ST, and `n` TICKs take `n` off each. -/
theorem delayTimerAfterTicks : Obligations.DelayTimerAfterTicks := by
  intro s a x y n h
  have hdt : a.dt = s.reg x := by cases h; rfl
  have hst : a.st = s.st := (effect_of_exec h).st_eq rfl
  refine ⟨⟨_, rfl, ?_⟩, ?_⟩
  · rw [State.reg_setReg_advance_same, State.tick_iterate_dt, countDown_iterate_toNat, hdt]
  · rw [State.tick_iterate_st, countDown_iterate_toNat, hst]

end Sys2Proof.Machine
end
